-- ==== Sys2Proof/Word.lean ====
section
/-!
DEFINITION. The data the block moves: bytes, the two wider register widths, and the RGBA element
(spec/20_memory.md R62, R66).
-/

namespace Sys2Proof

/-- A `u8` of the spec (spec/00_scope.md R7). -/
abbrev Byte := BitVec 8

/-- A `u16`: WIDTH and HEIGHT (spec/10_state.md R21). -/
abbrev U16 := BitVec 16

/-- A `u32`: MODE and ERR_INFO (spec/10_state.md R22, R29). -/
abbrev U32 := BitVec 32

/-- An RGBA element `(r,g,b,a)`: held as four components, never packed (spec/20_memory.md R62). -/
structure Rgba where
  r : Byte
  g : Byte
  b : Byte
  a : Byte
deriving DecidableEq, Repr

/-- `(0,0,0,0)`: what a refused FB_READ returns (spec/40_host_commands.md R121); no pixel of an image has it. -/
def Rgba.zero : Rgba := ⟨0, 0, 0, 0⟩

end Sys2Proof
end

