-- ==== Sys2Proof/Config.lean ====
section
/-!
DEFINITION. What an implementation fixes (the parameters of spec/00_scope.md R6) and the free values
(spec/93_implementation_defined.md U9). The named constants of R5 stand in Machine/Constants.lean; what the parameters
ABITS_FN and HAM_CULL_SHIFT compute stands in Machine/Operands.lean.
-/

namespace Sys2Proof

/-- The values the parameter `ABITS_FN` may be given: the two forms that spec/92_eei_decisions.md D17 and
90_conflicts.md C2 name, and every other function as a table, which is plain data (log entry 5). -/
inductive AbitsForm where
  /-- `while 2^b < n`, the smallest b with 2^b >= n: the spec's default. -/
  | below
  /-- `while 2^b <= n`: the document's legacy form, one more at exact powers of two. -/
  | belowOrEqual
  /-- Any other function: entry `n` of the list is the width of `n` entries; a count the list does not reach has the
  default's. -/
  | table (widths : List Nat)
deriving DecidableEq, Repr

/-- The values the parameter `HAM_CULL_SHIFT` may be given: the four readings that spec/92_eei_decisions.md D15 names,
and every other function as a table, which is plain data (log entry 5). -/
inductive CullReading where
  /-- `np - ((b - np) + 2)`: the spec's default. -/
  | readingA
  /-- `(np - (b - np)) + 2`. -/
  | readingB
  /-- `b - ((b - np) + 2)`. -/
  | readingC
  /-- `(b - np) + 2`. -/
  | readingD
  /-- Any other function: the shift listed for `(b, np)`, first the widths, then the plane counts; a pair that is not
  listed has the default's. -/
  | table (shifts : List ((Nat × Nat) × Int))
deriving DecidableEq, Repr

/-- The parameter `SHORT_BODY_POLICY` (spec/42_deinterleaver.md R153, 92_eei_decisions.md D12). -/
inductive ShortBody where
  /-- A needed byte that was never written faults PlaneUnderrun: the default. -/
  | fault
  /-- A needed byte that was never written reads as 0. -/
  | zero
deriving DecidableEq, Repr

/-- The implementation parameters of spec/00_scope.md R6, each under its own name. -/
structure Params where
  /-- PAL_DEPTH: entries each of PAL and WPAL can hold. -/
  palDepth : Nat
  /-- MAX_PLANES: largest legal NPLANES. -/
  maxPlanes : Nat
  /-- SRC_DEPTH: bytes SRC can hold. -/
  srcDepth : Nat
  /-- PB_DEPTH: bytes PB can hold. -/
  pbDepth : Nat
  /-- PIX_DEPTH: pixels CB and FB can hold. -/
  pixDepth : Nat
  /-- ABITS_FN. -/
  abitsFn : AbitsForm
  /-- HAM_CULL_SHIFT. -/
  hamCullShift : CullReading
  /-- SHORT_BODY_POLICY. -/
  shortBody : ShortBody
deriving DecidableEq, Repr

/-- The defaults of spec/00_scope.md R6. -/
def Params.default : Params where
  palDepth := 256
  maxPlanes := 8
  srcDepth := 4294967295
  pbDepth := 4294901760
  pixDepth := 4294836225
  abitsFn := .below
  hamCullShift := .readingA
  shortBody := .fault

/-- The ranges the spec gives the parameters: PAL_DEPTH is at least 64 (R6) and its counts are read through a 16-bit
register (spec/10_state.md R40); a pixel code is one byte, so at most 8 planes (R6, D6); the other sizes are read
through, or recorded in, 32-bit registers (R29, R40). -/
abbrev Params.Legal (p : Params) : Prop :=
  64 ≤ p.palDepth ∧ p.palDepth < 2 ^ 16 ∧ p.maxPlanes ≤ 8 ∧ p.srcDepth < 2 ^ 32 ∧ p.pbDepth < 2 ^ 32 ∧
    p.pixDepth < 2 ^ 32

/-- FREE VALUE: what the n-th read of a register "the spec does not fix" gives (spec/10_state.md R40,
93_implementation_defined.md U9); the reading instruction brings it into the register's range. It has no body: nothing
can be proved about its values. Log entry 11. -/
opaque Config.freeValue : Nat → Nat

end Sys2Proof
end

