-- ==== Sys2Proof/Machine/Constants.lean ====
section
/-!
DEFINITION. The constants the document fixes, each under the name spec/00_scope.md R5 gives it. They are unaudited
(spec/93_implementation_defined.md list L; log entry 14): every rule uses the name, so an audit changes one place.
-/

namespace Sys2Proof.Const

/-- HAM_BIT: mask of the Hold-And-Modify flag in MODE, bit 11. -/
def hamBit : U32 := 0x800

/-- EHB_BIT: mask of the Extended-Half-Bright flag in MODE, bit 7. -/
def ehbBit : U32 := 0x80

/-- EHB_KEEP_ABOVE: a palette with more entries than this is not doubled. -/
def ehbKeepAbove : Nat := 32

/-- ALPHA_OPAQUE. -/
def alphaOpaque : Byte := 255

/-- ROW_START: the accumulator at the start of every row. -/
def rowStart : Rgba := ⟨0, 0, 0, alphaOpaque⟩

/-- CTL_BLUE: the control value that replaces blue. -/
def ctlBlue : Nat := 1

/-- CTL_RED: the control value that replaces red. -/
def ctlRed : Nat := 2

/-- The first of the two control values that replace green, which R5 lists under no name. -/
def ctlGreen : Nat := 0

/-- The second of them. -/
def ctlGreenThree : Nat := 3

/-- HAM_CTL_WIDTH: width in bits of the modify control field. -/
def hamCtlWidth : Nat := 2

/-- HAM_CULL_MARGIN. -/
def hamCullMargin : Nat := 2

/-- RLE_RESERVED: the reserved control byte, signed -128. -/
def rleReserved : Byte := 0x80

/-- RLE_LIT_MAX: the largest literal control value, as an unsigned byte. -/
def rleLitMax : Nat := 127

/-- RLE_REP_MIN: the most negative replicate control value. -/
def rleRepMin : Int := -127

/-- PITCH_UNIT: pixels of one unit of a plane row. -/
def pitchUnitPixels : Nat := 16

/-- PITCH_UNIT: bytes of one unit of a plane row. -/
def pitchUnitBytes : Nat := 2

/-- COMP_NONE. The number is general knowledge (G1, log entry 13). -/
def compNone : Byte := 0

/-- COMP_RLE. The number is general knowledge (G1, log entry 13). -/
def compRle : Byte := 1

/-- COMP_VRLE. The number is general knowledge (G1, log entry 13); the block names it only to reject it. -/
def compVrle : Byte := 2

end Sys2Proof.Const
end

