-- ==== Sys2Proof/Syntax.lean ====
section
/-!
DEFINITION. The instructions: one constructor for every mnemonic of spec/opcode_table.json, with the operands its
rows give it. The rows HAM.MODG, HAM.MODB, HAM.MODR of the formats PM0 to PM8 are one constructor each: the width `b`
of format PM(b) is its first operand (spec/30_encoding.md R86, R97).
-/

namespace Sys2Proof

inductive Instr where
  /-- LIT, format L: the count field `n` of the control byte; COUNT = n + 1 stream bytes follow (R81, R134). -/
  | lit (n : BitVec 7)
  /-- REP, format R: the count field `n`, never 0; COUNT = 129 - n copies of the next stream byte (R81, R135). -/
  | rep (n : BitVec 7)
  /-- RSVD, format X: the reserved control byte 0x80 (R136). -/
  | rsvd
  /-- IDX, format P0, direct mode: a palette index (R171). -/
  | idx (index : Byte)
  /-- HAM.SET, format P0, HAM mode: a palette index below WPAL_COUNT (R174). -/
  | hamSet (index : Byte)
  /-- HAM.MODG, format PM(b): CTL is 3 when `three`, else 0; two encodings of one operation (R88, R93, R178). -/
  | hamModG (b : Nat) (three : Bool) (val : Byte)
  /-- HAM.MODB, format PM(b): CTL is 1 (R176). -/
  | hamModB (b : Nat) (val : Byte)
  /-- HAM.MODR, format PM(b): CTL is 2 (R177). -/
  | hamModR (b : Nat) (val : Byte)
  /-- UNPACK.RAW: COMP = 0 (R90, R137). -/
  | unpackRaw
  /-- UNPACK.RLE: COMP = 1 (R90, R132). -/
  | unpackRle
  /-- UNPACK.UNSUPPORTED: every other COMP value (R90, R223). -/
  | unpackUnsupported (value : Byte)
  /-- DEINT: no opcode, always the second unit (R150). -/
  | deint
  /-- FIX.EHB: MODE bit 7 set (R89, R161). -/
  | fixEhb
  /-- FIX.HAMCULL: MODE bit 11 set, bit 7 clear (R89, R162). -/
  | fixHamcull
  /-- FIX.PASS: both bits clear (R89, R163). -/
  | fixPass
  /-- COMP.DIRECT: MODE bit 11 clear (R89, R170). -/
  | compDirect
  /-- COMP.HAM: MODE bit 11 set (R89, R172). -/
  | compHam
  /-- RESET (R111). -/
  | reset
  /-- HDR_LOAD (R92, R112). -/
  | hdrLoad (width height : U16) (planeCount compressionMode : Byte)
  /-- MODE_LOAD (R113). -/
  | modeLoad (mode : U32)
  /-- PAL_CLEAR (R114). -/
  | palClear
  /-- PAL_PUSH (R91, R115). -/
  | palPush (r g b : Byte)
  /-- SRC_CLEAR (R116). -/
  | srcClear
  /-- SRC_PUSH (R117). -/
  | srcPush (v : Byte)
  /-- START (R118, R119). -/
  | start
  /-- REG_READ: a register number, a non-negative integer with no width written (R7, R60); one above 12 is refused by
  the block (R120). -/
  | regRead (no : Nat)
  /-- FB_READ: a pixel index (R121). An index is a non-negative integer (spec/20_memory.md R60) and no width is written,
  so it is unbounded (spec/00_scope.md R7); one at or above NPIX is refused by the block. -/
  | fbRead (k : Nat)
deriving DecidableEq, Repr

end Sys2Proof
end

