-- ==== Sys2Proof/WellFormed.lean ====
section
/-!
DEFINITION. Which terms of `Instr` are instructions: the checks are the `excluded` values of the table's rows and the
places of CTL and VAL in format PM(b) (spec/30_encoding.md R81, R84, R86, R88, R90).
-/

namespace Sys2Proof

/-- The row of format PM(b) with control value `ctl` exists: b is at most 8, VAL fits in b bits, and the control value
fits in the bits of the field that lie inside the byte (R86: at b = 7 only bit 7, at b = 8 none). -/
def modifyOk (b ctl : Nat) (val : Byte) : Bool :=
  b ≤ 8 && val.toNat < 2 ^ b && ctl * 2 ^ b < 256

/-- The control value of HAM.MODG's two encodings (R88). -/
def modGCtl (three : Bool) : Nat := if three then Const.ctlGreenThree else Const.ctlGreen

/-- An instruction of the table, not only a term of the type. -/
def Instr.wellFormed : Instr → Bool
  | .rep n => n ≠ 0
  | .hamModG b three val => modifyOk b (modGCtl three) val
  | .hamModB b val => modifyOk b Const.ctlBlue val
  | .hamModR b val => modifyOk b Const.ctlRed val
  | .unpackUnsupported value => value ≠ Const.compNone && value ≠ Const.compRle
  | .lit _ | .rsvd | .idx _ | .hamSet _ | .unpackRaw | .unpackRle | .deint | .fixEhb | .fixHamcull | .fixPass
  | .compDirect | .compHam | .reset | .hdrLoad _ _ _ _ | .modeLoad _ | .palClear | .palPush _ _ _ | .srcClear
  | .srcPush _ | .start | .regRead _ | .fbRead _ => true

/-- The ten host commands (R94). -/
def Instr.isHostCommand : Instr → Bool
  | .reset | .hdrLoad _ _ _ _ | .modeLoad _ | .palClear | .palPush _ _ _ | .srcClear | .srcPush _ | .start
  | .regRead _ | .fbRead _ => true
  | .lit _ | .rep _ | .rsvd | .idx _ | .hamSet _ | .hamModG _ _ _ | .hamModB _ _ | .hamModR _ _ | .unpackRaw
  | .unpackRle | .unpackUnsupported _ | .deint | .fixEhb | .fixHamcull | .fixPass | .compDirect | .compHam => false

end Sys2Proof
end

