-- ==== Sys2Proof/Decode.lean ====
section
/-!
DEFINITION. The encodings of spec/30_encoding.md. One bit pattern means different things in different places (R80), so
a decoder is told the SPACE it reads from: the RLE stream, a pixel code in one of the two compositor modes, the COMP
register, or the MODE register read for the fix-up or for the compositor mode. DEINT and the host commands have no
bits (R94, R97). After the decoder, the encoder and the assembler of R95, written from the same tables.
-/

namespace Sys2Proof

/-- Where a pattern is read from: the "space" of its row in spec/opcode_table.json. -/
inductive Space where
  /-- The control byte at SRC_PC (R81). -/
  | rle
  /-- A CB byte, HAM false (R85). -/
  | pixelDirect
  /-- A CB byte, HAM true, with `n` = WPAL_COUNT and `b` = ABITS(n) (R86). -/
  | pixelHam (n b : Nat)
  /-- The COMP register (R90). -/
  | compSel
  /-- The MODE register, palette fix-up (R89). -/
  | fixSel
  /-- The MODE register, compositor mode (R89). -/
  | compositorSel
deriving DecidableEq, Repr

/-- The bits of an instruction: a byte of SRC, CB or COMP, or the whole MODE register. -/
inductive Raw where
  | byte (c : Byte)
  | mode (m : U32)
deriving DecidableEq, Repr

/-- Why a pattern is no instruction of the space. -/
inductive Reject where
  /-- A byte was given where MODE is read, or MODE where a byte is read. -/
  | wrongShape
  /-- A modify code at an address width above 8, which R179 turns away before the first pixel. -/
  | widthAbove8
deriving DecidableEq, Repr

/-- HAM of MODE (spec/10_state.md R22). -/
def hamFlag (m : U32) : Bool := m &&& Const.hamBit ≠ 0

/-- EHB of MODE (spec/10_state.md R22). -/
def ehbFlag (m : U32) : Bool := m &&& Const.ehbBit ≠ 0

/-- The RLE control byte (R84, R133): RSVD is tested first, then the kind by the value; bits 6:0 are the count field.
Total over the 256 values. -/
def decodeRle (c : Byte) : Instr :=
  if c = Const.rleReserved then .rsvd
  else if c.toNat ≤ Const.rleLitMax then .lit (c.extractLsb' 0 7)
  else .rep (c.extractLsb' 0 7)

/-- CTL of a modify code: `(c >> b) & 3` (R86). -/
def ctlOf (b : Nat) (c : Byte) : Nat := c.toNat / 2 ^ b % 2 ^ Const.hamCtlWidth

/-- VAL of a modify code: `c mod 2^b` (R86). -/
def valOf (b : Nat) (c : Byte) : Byte := BitVec.ofNat 8 (c.toNat % 2 ^ b)

/-- A modify code of format PM(b) (R86, R88): blue for control 1, red for control 2, green otherwise. The bits above
the control field are ignored. -/
def decodeModify (b : Nat) (c : Byte) : Instr :=
  if ctlOf b c = Const.ctlBlue then .hamModB b (valOf b c)
  else if ctlOf b c = Const.ctlRed then .hamModR b (valOf b c)
  else .hamModG b (ctlOf b c ≠ Const.ctlGreen) (valOf b c)

/-- A pixel code in HAM mode (R86, R173): the test is on the count `n`, not on the control field. -/
def decodeHam (n b : Nat) (c : Byte) : Except Reject Instr :=
  if c.toNat < n then .ok (.hamSet c)
  else if b ≤ 8 then .ok (decodeModify b c)
  else .error .widthAbove8

/-- The COMP register (R90). -/
def decodeCompSel (v : Byte) : Instr :=
  if v = Const.compNone then .unpackRaw
  else if v = Const.compRle then .unpackRle
  else .unpackUnsupported v

/-- MODE read for the palette fix-up: EHB is tested first (R89, R160, 90_conflicts.md C1). -/
def decodeFixSel (m : U32) : Instr :=
  if ehbFlag m then .fixEhb else if hamFlag m then .fixHamcull else .fixPass

/-- MODE read for the compositor mode (R89, R170). -/
def decodeCompositorSel (m : U32) : Instr :=
  if hamFlag m then .compHam else .compDirect

/-- The decoder, total on every pattern in every space. -/
def decode : Space → Raw → Except Reject Instr
  | .rle, .byte c => .ok (decodeRle c)
  | .pixelDirect, .byte c => .ok (.idx c)
  | .pixelHam n b, .byte c => decodeHam n b c
  | .compSel, .byte c => .ok (decodeCompSel c)
  | .fixSel, .mode m => .ok (decodeFixSel m)
  | .compositorSel, .mode m => .ok (decodeCompositorSel m)
  | .rle, .mode _ | .pixelDirect, .mode _ | .pixelHam _ _, .mode _ | .compSel, .mode _ | .fixSel, .byte _
  | .compositorSel, .byte _ => .error .wrongShape

/-- The byte of a modify code: `(ctl << b) | val` (R95), ignored bits 0. -/
def modifyByte (b ctl : Nat) (val : Byte) : Byte := BitVec.ofNat 8 (ctl * 2 ^ b + val.toNat)

/-- The encoder: the pattern of a well-formed instruction, ignored bits 0; nothing for the rows without a mask
(DEINT and the host commands, R97). -/
def encode : Instr → Option Raw
  | .lit n => some (.byte (0#1 ++ n))
  | .rep n => some (.byte (1#1 ++ n))
  | .rsvd => some (.byte Const.rleReserved)
  | .idx c => some (.byte c)
  | .hamSet c => some (.byte c)
  | .hamModG b three val => some (.byte (modifyByte b (modGCtl three) val))
  | .hamModB b val => some (.byte (modifyByte b Const.ctlBlue val))
  | .hamModR b val => some (.byte (modifyByte b Const.ctlRed val))
  | .unpackRaw => some (.byte Const.compNone)
  | .unpackRle => some (.byte Const.compRle)
  | .unpackUnsupported v => some (.byte v)
  | .fixEhb => some (.mode Const.ehbBit)
  | .fixHamcull => some (.mode Const.hamBit)
  | .fixPass => some (.mode 0)
  | .compDirect => some (.mode 0)
  | .compHam => some (.mode Const.hamBit)
  | .deint | .reset | .hdrLoad _ _ _ _ | .modeLoad _ | .palClear | .palPush _ _ _ | .srcClear | .srcPush _ | .start
  | .regRead _ | .fbRead _ => none

/-- Whether an instruction is one that its pattern stands for in a space. In HAM mode that depends on the working
palette: HAM.SET names an entry it has, a modify code is at or above its count and its width is the palette's (R86,
R95: "are modify codes only when the result is >= WPAL_COUNT"). -/
def Instr.inSpace : Space → Instr → Bool
  | .rle, .lit _ | .rle, .rep _ | .rle, .rsvd => true
  | .pixelDirect, .idx _ => true
  | .pixelHam n _, .hamSet c => c.toNat < n
  | .pixelHam n b, .hamModG b' three val => b' = b && n ≤ (modifyByte b' (modGCtl three) val).toNat
  | .pixelHam n b, .hamModB b' val => b' = b && n ≤ (modifyByte b' Const.ctlBlue val).toNat
  | .pixelHam n b, .hamModR b' val => b' = b && n ≤ (modifyByte b' Const.ctlRed val).toNat
  | .compSel, .unpackRaw | .compSel, .unpackRle | .compSel, .unpackUnsupported _ => true
  | .fixSel, .fixEhb | .fixSel, .fixHamcull | .fixSel, .fixPass => true
  | .compositorSel, .compDirect | .compositorSel, .compHam => true
  | _, _ => false

/-! ### The assembler of R95 -/

/-- One line of an RLE program (R95). -/
inductive AsmLine where
  /-- `LIT d0 d1 ... dn`. -/
  | lit (data : List Byte)
  /-- `REP count, d`. -/
  | rep (count : Nat) (d : Byte)
  /-- `RSVD`. -/
  | rsvd
  /-- `.byte v`: a raw stream byte. -/
  | byte (v : Byte)
deriving DecidableEq, Repr

/-- What a line assembles to; nothing where its operands are out of the range R95 gives. -/
def AsmLine.assemble : AsmLine → Option (List Byte)
  | .lit data =>
    if 1 ≤ data.length ∧ data.length ≤ Const.rleLitMax + 1 then some (BitVec.ofNat 8 (data.length - 1) :: data) else none
  | .rep count d => if 2 ≤ count ∧ (count : Int) ≤ 1 - Const.rleRepMin then some [BitVec.ofNat 8 (257 - count), d] else none
  | .rsvd => some [Const.rleReserved]
  | .byte v => some [v]

/-- What a run line puts into the plane buffer when nothing cuts it short (R134, R135); nothing for the other lines. -/
def AsmLine.output : AsmLine → Option (List Byte)
  | .lit data => some data
  | .rep count d => some (List.replicate count d)
  | .rsvd | .byte _ => none

/-- What a program of run lines unpacks to, one line after the other (R132). -/
def programOutput : List AsmLine → Option (List Byte)
  | [] => some []
  | l :: ls => do
    let out ← l.output
    let rest ← programOutput ls
    some (out ++ rest)

/-- An RLE program assembles line by line, each to its own bytes (R95). -/
def assemble : List AsmLine → Option (List Byte)
  | [] => some []
  | l :: ls => do
    let bs ← l.assemble
    let rest ← assemble ls
    some (bs ++ rest)

/-! ### The host's view of the table -/

/-- The instruction the decoder reads from the bits `w` of a table row, numbered as the table numbers them. A 32-bit row
is the MODE register, read for the fix-up; a row of bytes is the RLE stream that SRC_PC walks, whose first byte alone
selects the instruction (R83). Log entry 18 says why these two spaces. -/
def decodeTableWord (nbits w : Nat) : Option Instr :=
  if nbits = 32 then (decode .fixSel (.mode (BitVec.ofNat 32 w))).toOption
  else if 8 ≤ nbits then (decode .rle (.byte (BitVec.ofNat 8 w))).toOption
  else none

end Sys2Proof
end

