-- ==== Sys2Proof/Machine/State.lean ====
section
/-!
DEFINITION. The state of one IDC (spec/10_state.md R20) and its reset (R39), the block's own faults (R220), and the
reasons a step of the model can stop.
-/

namespace Sys2Proof.Machine

/-- STATUS.PHASE (R23, R36). -/
inductive Phase where
  | idle
  | busy
  | done
  | fault
deriving DecidableEq, Repr

/-- Which unit the sequencer is at while PHASE is BUSY (R36: not readable by the host; spec/40_host_commands.md
R119). -/
inductive Stage where
  /-- UNPACK starts: COMP selects (R131). -/
  | unpack
  /-- Inside UNPACK.RLE's loop (R132). -/
  | rle
  /-- DEINT starts (R150). -/
  | deint
  /-- FIX starts: MODE selects (R160). -/
  | fix
  /-- COMP starts: MODE selects (R170). -/
  | comp
  /-- Inside COMP's loop over the pixels (R171, R172). -/
  | pixels
deriving DecidableEq, Repr

/-- The block's faults, the exceptions it takes (spec/60_exceptions.md R220). -/
inductive Cause where
  | missingDependency
  | unsupportedCompression
  | reservedOpcode
  | malformedChunk
  | planeUnderrun
  | paletteRange
  | configRange
deriving DecidableEq, Repr

/-- What a read command returned to the host (spec/40_host_commands.md R120, R121). -/
inductive Reply where
  | reg (value : Nat)
  | pixel (value : Rgba)
deriving DecidableEq, Repr

/-- A host command on its way to the block: it arrives after `after` more steps. -/
structure Arrival where
  after : Nat
  cmd : Instr
deriving DecidableEq, Repr

/-- The memories whose elements have no value until they are written (R39, spec/70_reset_and_hazards.md R251). -/
inductive MemSpace where
  | src
  | pb
  | cb
  | fb
deriving DecidableEq, Repr

/-- The state. The first fields are the spec's (R20, R37), under its names; the last four are the model's own and are
listed as such in INVENTORY.md. A memory is a list of index and element with indices strictly rising. -/
structure State where
  /-- WIDTH (R21). -/
  width : U16
  /-- HEIGHT (R21). -/
  height : U16
  /-- NPLANES (R21). -/
  nplanes : Byte
  /-- COMP (R21). -/
  comp : Byte
  /-- MODE (R22). -/
  mode : U32
  /-- STATUS.PHASE (R23, R36). -/
  phase : Phase
  /-- STATUS.HDR_VALID (R23). -/
  hdrValid : Bool
  /-- STATUS.PAL_OVF (R23). -/
  palOvf : Bool
  /-- STATUS.SRC_OVF (R23). -/
  srcOvf : Bool
  /-- STATUS.CMD_ERR (R23, R122). -/
  cmdErr : Bool
  /-- ERR (R29). -/
  err : Byte
  /-- ERR_INFO (R29). -/
  errInfo : U32
  /-- PAL (R26): a register file; entries not listed read as (0,0,0,0), log entry 8. -/
  pal : List (Nat × Rgba)
  /-- PAL_COUNT (R26). -/
  palCount : Nat
  /-- WPAL (R27): as PAL. -/
  wpal : List (Nat × Rgba)
  /-- WPAL_COUNT (R27). -/
  wpalCount : Nat
  /-- PREV (R28). -/
  prev : Rgba
  /-- SRC (R32): bytes not listed have no value, log entry 7. -/
  src : List Host.Cell
  /-- SRC_LEN (R32). -/
  srcLen : Nat
  /-- SRC_PC, the program counter (R30). -/
  srcPc : Nat
  /-- PB (R33): as SRC. -/
  pb : List Host.Cell
  /-- PB_FILL (R31). -/
  pbFill : Nat
  /-- CB (R34): as SRC. -/
  cb : List Host.Cell
  /-- FB (R35): elements not listed have no value, log entry 7. -/
  fb : List (Nat × Rgba)
  /-- The unit that is running (R36). -/
  stage : Stage
  /-- COMP's loop counter: the index of the next pixel, row `pix / WIDTH`, column `pix mod WIDTH` (R37). -/
  pix : Nat
  /-- The implementation parameters (spec/00_scope.md R6), constant; log entry 4. -/
  cfg : Params
  /-- The host commands that have not arrived yet; log entry 1. -/
  inbox : List Arrival
  /-- What the last read command returned; log entry 10. -/
  reply : Option Reply
  /-- How many free values have been used; log entry 11. -/
  freeCount : Nat
deriving DecidableEq, Repr

/-- Why the model stops. The block's own faults are no stop: they are taken as exceptions (`raise`). -/
inductive Fault where
  /-- A unit or FB_READ reads a memory element that nothing has written. Raised by LIT, REP, UNPACK.RAW and the fetch
  (SRC), DEINT (PB, CB), the pixel fetch (CB) and FB_READ (FB). SAFE: the spec gives such an element no value (R39,
  R251) and says that no rule reads one (spec/20_memory.md R74). Log entry 7. -/
  | unwritten (space : MemSpace) (index : Nat)
deriving DecidableEq, Repr

/-- Why the model gives no meaning. -/
inductive Refusal where
  /-- An instruction that has no meaning yet, by its mnemonic. Raised by exec's refused arms, of which there is none.
  SAFE. -/
  | notModelled (mnemonic : String)
  /-- The model's input queue holds a term that is no host command (spec/30_encoding.md R94). Raised by step. SAFE:
  the host can send nothing else. Log entry 1. -/
  | notAHostCommand
  /-- The decoder rejects the pattern the running unit meets, by the name of its reason. Raised by step, for one reason
  only: a modify code at an address width above 8. SAFE: the guard of spec/44_pixel_compositor.md R179 faults before the
  first pixel, so no state that meets the invariant reaches it, and the spec gives no meaning to a negative pad width
  (93_implementation_defined.md U12). -/
  | undecodable (why : Reject)
deriving DecidableEq, Repr

/-- The state right after reset (spec/10_state.md R39, spec/70_reset_and_hazards.md R251). -/
def State.reset : State where
  width := 0
  height := 0
  nplanes := 0
  comp := 0
  mode := 0
  phase := .idle
  hdrValid := false
  palOvf := false
  srcOvf := false
  cmdErr := false
  err := 0
  errInfo := 0
  pal := []
  palCount := 0
  wpal := []
  wpalCount := 0
  prev := Const.rowStart
  src := []
  srcLen := 0
  srcPc := 0
  pb := []
  pbFill := 0
  cb := []
  fb := []
  stage := .unpack
  pix := 0
  cfg := Params.default
  inbox := []
  reply := none
  freeCount := 0

end Sys2Proof.Machine
end

