-- ==== Sys2Proof/Machine/Memory.lean ====
section
/-!
DEFINITION. Memories and register files as lists in one canonical form (spec/20_memory.md R60, R66): every access is
one element at an index. A memory element that is not listed has no value (log entry 7); a register-file entry that is
not listed reads as (0,0,0,0) (log entry 8).
-/

namespace Sys2Proof.Machine

/-- The element at index `a`, none where nothing was written. -/
def memRead {α : Type} : List (Nat × α) → Nat → Option α
  | [], _ => none
  | (k, v) :: rest, a => if k = a then some v else memRead rest a

/-- Writes one element, keeping the indices rising. -/
def memWrite {α : Type} : List (Nat × α) → Nat → α → List (Nat × α)
  | [], a, v => [(a, v)]
  | (k, w) :: rest, a, v =>
    if a < k then (a, v) :: (k, w) :: rest
    else if a = k then (a, v) :: rest
    else (k, w) :: memWrite rest a v

/-- Every listed index is above `lo` and they rise strictly. -/
def memRising {α : Type} : Nat → List (Nat × α) → Bool
  | _, [] => true
  | lo, (k, _) :: rest => lo ≤ k && memRising (k + 1) rest

/-- The canonical form of a memory. -/
def memWf {α : Type} (m : List (Nat × α)) : Bool := memRising 0 m

/-- Forgets the entry at index `a`. -/
def memErase {α : Type} (m : List (Nat × α)) (a : Nat) : List (Nat × α) := m.filter (fun e => e.1 ≠ a)

/-- An entry of a register file: what it holds, (0,0,0,0) where nothing is listed. -/
def regRead (f : List (Nat × Rgba)) (k : Nat) : Rgba := (memRead f k).getD Rgba.zero

/-- Writes one entry of a register file; writing what an unlisted entry reads as removes it from the list. -/
def regWrite (f : List (Nat × Rgba)) (k : Nat) (v : Rgba) : List (Nat × Rgba) :=
  if v = Rgba.zero then memErase f k else memWrite f k v

/-- The canonical form of a register file: rising, and no entry equal to what an unlisted one reads as. -/
def regWf (f : List (Nat × Rgba)) : Bool := memWf f && f.all (fun e => e.2 ≠ Rgba.zero)

/-- Whether every index below `n` has been written. -/
def memFilled {α : Type} (m : List (Nat × α)) (n : Nat) : Bool := (List.range n).all (fun a => (memRead m a).isSome)

/-- `Memory.wf`: the canonical form of all six index spaces of a state. -/
def Memory.wf (s : State) : Bool :=
  memWf s.src && memWf s.pb && memWf s.cb && memWf s.fb && regWf s.pal && regWf s.wpal

end Sys2Proof.Machine
end

