-- ==== Sys2Proof/Machine/Operands.lean ====
section
/-!
DEFINITION. What the instructions compute their effect from: the derived geometry (spec/10_state.md R24), the address
width (R25), the plane-buffer offset (spec/20_memory.md R68), the operand fields of the RLE and pixel codes
(spec/30_encoding.md R82, R87), and the palette arithmetic (spec/43_palette_fixer.md R161, R162).
-/

namespace Sys2Proof.Machine

/-! ### Derived geometry (R24) -/

/-- `ceil(w / 16) * 2`. -/
def pitchOf (w : Nat) : Nat := (w + (Const.pitchUnitPixels - 1)) / Const.pitchUnitPixels * Const.pitchUnitBytes

/-- `ceil(w / 8)`. -/
def rowBytesOf (w : Nat) : Nat := (w + 7) / 8

/-- PITCH: bytes of one row of one plane. -/
def State.pitch (s : State) : Nat := pitchOf s.width.toNat

/-- ROWBYTES: bytes of a plane row that hold at least one real pixel. -/
def State.rowBytes (s : State) : Nat := rowBytesOf s.width.toNat

/-- PB_SIZE: bytes of the plane buffer. -/
def State.pbSize (s : State) : Nat := s.pitch * s.height.toNat * s.nplanes.toNat

/-- NPIX: pixels of the image. -/
def State.npix (s : State) : Nat := s.width.toNat * s.height.toNat

/-- PBOFF(y, p, i) (spec/20_memory.md R68). -/
def State.pbOff (s : State) (y p i : Nat) : Nat := s.pitch * s.nplanes.toNat * y + p * s.pitch + i

/-! ### The address width (R25) -/

/-- The first `b` counted up from the last argument that fails the test, tried for at most `fuel` values. -/
def countUp (test : Nat → Bool) : (fuel b : Nat) → Nat
  | 0, b => b
  | fuel + 1, b => if test b then countUp test fuel (b + 1) else b

/-- The smallest `b` with `2^b >= n`: the default of ABITS_FN. `n + 1` tries are enough, since `2^n` is above `n`. -/
def smallestWidth (n : Nat) : Nat := countUp (fun b => 2 ^ b < n) (n + 1) 0

/-- The smallest `b` with `2^b > n`: the legacy form of ABITS_FN (spec/90_conflicts.md C2). -/
def legacyWidth (n : Nat) : Nat := countUp (fun b => 2 ^ b ≤ n) (n + 1) 0

/-- ABITS(n) under a value of the parameter ABITS_FN. -/
def abits (f : AbitsForm) (n : Nat) : Nat :=
  match f with
  | .below => smallestWidth n
  | .belowOrEqual => legacyWidth n
  | .table widths => widths[n]?.getD (smallestWidth n)

/-- ABITS(WPAL_COUNT), the width COMP and FIX.HAMCULL use (R165). -/
def State.wpalBits (s : State) : Nat := abits s.cfg.abitsFn s.wpalCount

/-! ### RLE operands (R82) -/

/-- COUNT of LIT: `c + 1`, `c` being the count field. -/
def litCount (n : BitVec 7) : Nat := n.toNat + 1

/-- COUNT of REP: `257 - c` for the whole control byte `c = 128 + n`. -/
def repCount (n : BitVec 7) : Nat := 257 - (128 + n.toNat)

/-! ### Pixel codes -/

/-- The space a CB byte is decoded in (R170). -/
def State.pixelSpace (s : State) : Space :=
  if hamFlag s.mode then .pixelHam s.wpalCount s.wpalBits else .pixelDirect

/-- V8, the component value of a modify code: VAL shifted left to fill 8 bits (R87). -/
def v8 (b : Nat) (val : Byte) : Byte := BitVec.ofNat 8 (val.toNat * 2 ^ (8 - b))

/-! ### Palette arithmetic -/

/-- The half-bright copy of an entry (R161). -/
def halfBright (e : Rgba) : Rgba := ⟨e.r >>> 1, e.g >>> 1, e.b >>> 1, Const.alphaOpaque⟩

/-- The default of HAM_CULL_SHIFT: `np - ((b - np) + HAM_CULL_MARGIN)` (R162). -/
def defaultCullShift (b np : Nat) : Int := np - (((b : Int) - np) + Const.hamCullMargin)

/-- HAM_CULL_SHIFT(b, np) under a value of the parameter; it may be negative (R162; the readings:
spec/92_eei_decisions.md D15). -/
def cullShift (c : CullReading) (b np : Nat) : Int :=
  let delta : Int := (b : Int) - np
  match c with
  | .readingA => defaultCullShift b np
  | .readingB => (np - delta) + Const.hamCullMargin
  | .readingC => b - (delta + Const.hamCullMargin)
  | .readingD => delta + Const.hamCullMargin
  | .table shifts => (shifts.lookup (b, np)).getD (defaultCullShift b np)

end Sys2Proof.Machine
end

