-- ==== Sys2Proof/Machine/Flags.lean ====
section
/-!
DEFINITION. The flags of the block (spec/10_state.md R22, R23): the mode flags decoded from MODE, the STATUS register
put together from its fields, and the code of each fault (spec/60_exceptions.md R220). There are no arithmetic
condition codes.
-/

namespace Sys2Proof.Machine

/-- HAM (R22). -/
def State.ham (s : State) : Bool := hamFlag s.mode

/-- EHB (R22). -/
def State.ehb (s : State) : Bool := ehbFlag s.mode

/-- The value of the PHASE field (R23). -/
def Phase.code : Phase → BitVec 2
  | .idle => 0
  | .busy => 1
  | .done => 2
  | .fault => 3

/-- STATUS (R23): bits 7:6 read as 0, then CMD_ERR, SRC_OVF, PAL_OVF, HDR_VALID, PHASE. -/
def State.status (s : State) : Byte :=
  0#2 ++ BitVec.ofBool s.cmdErr ++ BitVec.ofBool s.srcOvf ++ BitVec.ofBool s.palOvf ++ BitVec.ofBool s.hdrValid ++
    s.phase.code

/-- The ERR code of a fault (R220). -/
def Cause.code : Cause → Byte
  | .missingDependency => 1
  | .unsupportedCompression => 2
  | .reservedOpcode => 3
  | .malformedChunk => 4
  | .planeUnderrun => 5
  | .paletteRange => 6
  | .configRange => 7

end Sys2Proof.Machine
end

