-- ==== Sys2Proof/Machine/Ops.lean ====
section
/-!
DEFINITION. The operations the meanings share: taking a fault (spec/60_exceptions.md R230), the way out of it (R232),
accepting or dropping a host command (spec/40_host_commands.md R110, R122), the fetch and the stores of the units
(spec/41_rle_decompressor.md R141, spec/44_pixel_compositor.md R180), and the `for` of the pseudocode
(spec/00_scope.md R10).
-/

namespace Sys2Proof.Machine

/-- `raise F(info)`: ERR, ERR_INFO and PHASE are written and nothing else; there is no handler, nothing is saved, and
the decode stops (R230). -/
def State.raise (s : State) (f : Cause) (info : Nat) : State :=
  { s with err := f.code, errInfo := BitVec.ofNat 32 info, phase := .fault }

/-- The only way out of FAULT (R232), and the effect of RESET in every phase: every piece of the block's state takes
its reset value (R111, R251). What is not the block's stays: its parameters, the commands still on their way, and the
count of free values used. -/
def State.resetBlock (s : State) : State :=
  { State.reset with cfg := s.cfg, inbox := s.inbox, freeCount := s.freeCount }

/-- A dropped command: CMD_ERR is set and nothing else changes (R122). -/
def State.dropCommand (s : State) : State := { s with cmdErr := true }

/-- A load command or START: accepted in IDLE, dropped elsewhere (R110). -/
def acceptedInIdle (effect : State → State) (s : State) : State :=
  if s.phase = .idle then effect s else s.dropCommand

/-- How a piece of a unit's pseudocode ends. -/
inductive Flow where
  /-- It ran; what follows it runs next. -/
  | goesOn (s : State)
  /-- It raised a fault of the block; nothing after it runs. -/
  | raised (s : State)
  /-- It read a memory element that nothing has written. -/
  | stuck (r : Fault)

/-- One piece of pseudocode after another. -/
def Flow.andThen : Flow → (State → Flow) → Flow
  | .goesOn s, k => k s
  | .raised s, _ => .raised s
  | .stuck r, _ => .stuck r

/-- The outcome of an instruction whose pseudocode ended so. -/
def Flow.outcome : Flow → Host.Outcome State Fault Refusal
  | .goesOn s => .next s
  | .raised s => .next s
  | .stuck r => .fault r

/-- `for v in [v0, v0 + count)` over pseudocode that may raise (spec/00_scope.md R10). -/
def forEach (body : Nat → State → Flow) : (count v0 : Nat) → State → Flow
  | 0, _, s => .goesOn s
  | count + 1, v0, s => (body v0 s).andThen (forEach body count (v0 + 1))

/-- `for v in [v0, v0 + count)` over a plain update of one value. -/
def forUpdate {α : Type} (body : Nat → α → α) : (count v0 : Nat) → α → α
  | 0, _, x => x
  | count + 1, v0, x => forUpdate body count (v0 + 1) (body v0 x)

/-- A read of a memory element inside a unit: stuck where nothing was written (log entry 7). -/
def readOrStuck {α : Type} (space : MemSpace) (m : List (Nat × α)) (a : Nat) (k : α → Flow) : Flow :=
  match memRead m a with
  | some v => k v
  | none => .stuck (.unwritten space a)

/-- `v <- MemRead(SRC, SRC_PC, 1) ; SRC_PC <- SRC_PC + 1` (R141): the byte is given to what follows. -/
def State.fetchSrc (s : State) (k : Byte → State → Flow) : Flow :=
  readOrStuck .src s.src s.srcPc (fun v => k v { s with srcPc := s.srcPc + 1 })

/-- `MemWrite(PB, PB_FILL, 1, v) ; PB_FILL <- PB_FILL + 1` (R141). -/
def State.storePb (s : State) (v : Byte) : State :=
  { s with pb := memWrite s.pb s.pbFill v, pbFill := s.pbFill + 1 }

/-- `MemWrite(CB, k, 1, v)`. -/
def State.storeCb (s : State) (k : Nat) (v : Byte) : State := { s with cb := memWrite s.cb k v }

/-- `FB[k] <- px` for the pixel the loop is at, and on to the next one (R180). -/
def State.emitPixel (s : State) (px : Rgba) : State :=
  { s with fb := memWrite s.fb s.pix px, pix := s.pix + 1 }

/-- `PREV <- px`. -/
def State.setPrev (s : State) (px : Rgba) : State := { s with prev := px }

/-- The sequencer goes on to another unit (R119). -/
def State.goto (s : State) (st : Stage) : State := { s with stage := st }

end Sys2Proof.Machine
end

