-- ==== Sys2Proof/Machine/Composite.lean ====
section
/-!
DEFINITION. COMP (spec/44_pixel_compositor.md): the entry in each mode, and the pixel codes IDX, HAM.SET, HAM.MODG,
HAM.MODB, HAM.MODR. The meaning of a pixel code starts after its CB byte is read and, in HAM mode, after the row start
of R172.
-/

namespace Sys2Proof.Machine

/-- COMP.DIRECT (R170, R171): enters the pixel loop at pixel 0. -/
def execCompDirect (s : State) : Host.Outcome State Fault Refusal :=
  .next ({ s with pix := 0 }.goto .pixels)

/-- COMP.HAM (R170, R172): the width guard of R179, then the pixel loop at row 0, column 0. -/
def execCompHam (s : State) : Host.Outcome State Fault Refusal :=
  if s.wpalBits > 8 then .next (s.raise .configRange 7)
  else .next ({ s with pix := 0 }.goto .pixels)

/-- IDX (R171): PREV is not touched. -/
def execIdx (index : Byte) (s : State) : Host.Outcome State Fault Refusal :=
  if s.wpalCount ≤ index.toNat then .next (s.raise .paletteRange s.pix)
  else .next (s.emitPixel (regRead s.wpal index.toNat))

/-- Every HAM code ends so: the pixel goes to FB and becomes the new PREV (R172). -/
def State.holdPixel (s : State) (px : Rgba) : State := (s.emitPixel px).setPrev px

/-- HAM.SET (R174). -/
def execHamSet (index : Byte) (s : State) : Host.Outcome State Fault Refusal :=
  .next (s.holdPixel (regRead s.wpal index.toNat))

/-- HAM.MODG (R175, R178): the same effect for both encodings. -/
def execHamModG (b : Nat) (_three : Bool) (val : Byte) (s : State) : Host.Outcome State Fault Refusal :=
  .next (s.holdPixel { s.prev with g := v8 b val })

/-- HAM.MODB (R175, R176). -/
def execHamModB (b : Nat) (val : Byte) (s : State) : Host.Outcome State Fault Refusal :=
  .next (s.holdPixel { s.prev with b := v8 b val })

/-- HAM.MODR (R175, R177). -/
def execHamModR (b : Nat) (val : Byte) (s : State) : Host.Outcome State Fault Refusal :=
  .next (s.holdPixel { s.prev with r := v8 b val })

end Sys2Proof.Machine
end

