-- ==== Sys2Proof/Machine/Deint.lean ====
section
/-!
DEFINITION. DEINT (spec/42_deinterleaver.md), the loop of R152 as it stands, so that the first needed byte that was
never written is the one the fault names (R153).
-/

namespace Sys2Proof.Machine

/-- PBYTE(a) (R153): the byte where UNPACK wrote one, else what SHORT_BODY_POLICY says. -/
def State.pbyte (s : State) (a : Nat) (k : Byte → Flow) : Flow :=
  if a < s.pbFill then readOrStuck .pb s.pb a k
  else match s.cfg.shortBody with
    | .fault => .raised (s.raise .planeUnderrun a)
    | .zero => k 0

/-- The clearing pass: `CB[k] <- 0` (R152). -/
def deintClear (k : Nat) (s : State) : Flow := .goesOn (s.storeCb k 0)

/-- Bit `7 - k` of a plane byte, most significant first, into the pixel at column `i*8 + k` (R152); columns at or
beyond WIDTH have no pixel (R154). -/
def deintBit (y p i : Nat) (v : Byte) (k : Nat) (s : State) : Flow :=
  let x := i * 8 + k
  if x < s.width.toNat ∧ v.getLsbD (7 - k) then
    readOrStuck .cb s.cb (y * s.width.toNat + x) (fun c =>
      .goesOn (s.storeCb (y * s.width.toNat + x) (c ||| BitVec.ofNat 8 (2 ^ p))))
  else .goesOn s

/-- Byte `i` of a plane row (R152). -/
def deintByte (y p i : Nat) (s : State) : Flow :=
  s.pbyte (s.pbOff y p i) (fun v => forEach (deintBit y p i v) 8 0 s)

/-- One plane row: the bytes that hold at least one real pixel (R154). -/
def deintPlane (y p : Nat) (s : State) : Flow := forEach (deintByte y p) s.rowBytes 0 s

/-- One scanline: its plane rows one after the other. -/
def deintRow (y : Nat) (s : State) : Flow := forEach (deintPlane y) s.nplanes.toNat 0 s

/-- The whole of R152. -/
def deintAll (s : State) : Flow :=
  (forEach deintClear s.npix 0 s).andThen (fun t => forEach deintRow t.height.toNat 0 t)

/-- DEINT (R150), and on to FIX (R119). -/
def execDeint (s : State) : Host.Outcome State Fault Refusal :=
  ((deintAll s).andThen (fun t => .goesOn (t.goto .fix))).outcome

end Sys2Proof.Machine
end

