-- ==== Sys2Proof/Machine/Fix.lean ====
section
/-!
DEFINITION. FIX (spec/43_palette_fixer.md): the copy of R160 that every operation starts with, then FIX.EHB,
FIX.HAMCULL or FIX.PASS, and on to COMP (spec/40_host_commands.md R119).
-/

namespace Sys2Proof.Machine

/-- `WPAL[k] <- PAL[k]` for every loaded entry, `WPAL_COUNT <- n` (R160). -/
def State.copyPalette (s : State) : State :=
  { s with
    wpal := forUpdate (fun k w => regWrite w k (regRead s.pal k)) s.palCount 0 s.wpal
    wpalCount := s.palCount }

/-- The doubling of R161: the copies are made from the original half. -/
def State.halfBrightDouble (s : State) : State :=
  if s.wpalCount > Const.ehbKeepAbove then s
  else { s with
    wpal := forUpdate (fun k w => regWrite w (s.wpalCount + k) (halfBright (regRead w k))) s.wpalCount 0 s.wpal
    wpalCount := 2 * s.wpalCount }

/-- The cull of R162. -/
def State.hamCull (s : State) : Flow :=
  let np := s.nplanes.toNat
  if s.wpalBits > np then
    let shift := cullShift s.cfg.hamCullShift s.wpalBits np
    if shift < 0 then .raised (s.raise .configRange 6)
    else .goesOn { s with wpalCount := s.wpalCount / 2 ^ shift.toNat }
  else .goesOn s

/-- FIX.EHB, Extended-Half-Bright doubling (R161). -/
def execFixEhb (s : State) : Host.Outcome State Fault Refusal :=
  .next (s.copyPalette.halfBrightDouble.goto .comp)

/-- FIX.HAMCULL, Hold-And-Modify cull (R162). -/
def execFixHamcull (s : State) : Host.Outcome State Fault Refusal :=
  (s.copyPalette.hamCull.andThen (fun t => .goesOn (t.goto .comp))).outcome

/-- FIX.PASS (R163). -/
def execFixPass (s : State) : Host.Outcome State Fault Refusal :=
  .next (s.copyPalette.goto .comp)

end Sys2Proof.Machine
end

