-- ==== Sys2Proof/Machine/Unpack.lean ====
section
/-!
DEFINITION. UNPACK (spec/41_rle_decompressor.md): LIT, REP, RSVD, and the COMP selections UNPACK.RAW, UNPACK.RLE,
UNPACK.UNSUPPORTED. The meanings of LIT, REP and RSVD start after the fetch of R133, which has moved SRC_PC past the
control byte. The tests `PB_FILL = PB_SIZE` and `SRC_PC = SRC_LEN` are written with "at least" (log entry 20).
-/

namespace Sys2Proof.Machine

/-- One pass of LIT's loop (R134): the "output full" test comes before the "span ended" test. A full output makes every
later pass do nothing, which is leaving the loop. -/
def litPass (_j : Nat) (s : State) : Flow :=
  if s.pbSize ≤ s.pbFill then .goesOn s
  else if s.srcLen ≤ s.srcPc then .raised (s.raise .malformedChunk s.srcPc)
  else s.fetchSrc (fun v t => .goesOn (t.storePb v))

/-- LIT, literal run (R134). -/
def execLit (n : BitVec 7) (s : State) : Host.Outcome State Fault Refusal :=
  (forEach litPass (litCount n) 0 s).outcome

/-- One pass of REP's loop (R135). -/
def repPass (d : Byte) (_j : Nat) (s : State) : State :=
  if s.pbSize ≤ s.pbFill then s else s.storePb d

/-- REP, replicate run (R135): the data byte is read before the output is tested. -/
def execRep (n : BitVec 7) (s : State) : Host.Outcome State Fault Refusal :=
  if s.srcLen ≤ s.srcPc then .next (s.raise .malformedChunk s.srcPc)
  else (s.fetchSrc (fun d t => .goesOn (forUpdate (repPass d) (repCount n) 0 t))).outcome

/-- RSVD (R136): SRC_PC already points past the byte, so its index is SRC_PC - 1. -/
def execRsvd (s : State) : Host.Outcome State Fault Refusal :=
  .next (s.raise .reservedOpcode (s.srcPc - 1))

/-- UNPACK.RLE (R132): enters the loop, whose test and instructions are the steps that follow. -/
def execUnpackRle (s : State) : Host.Outcome State Fault Refusal :=
  .next (s.goto .rle)

/-- One pass of UNPACK.RAW's loop (R137). -/
def rawPass (a : Nat) (s : State) : Flow :=
  readOrStuck .src s.src a (fun v => .goesOn { s with pb := memWrite s.pb a v })

/-- UNPACK.RAW (R137), and on to DEINT (R119). -/
def execUnpackRaw (s : State) : Host.Outcome State Fault Refusal :=
  let n := min s.srcLen s.pbSize
  ((forEach rawPass n 0 s).andThen (fun t =>
    .goesOn ({ t with pbFill := n, srcPc := n }.goto .deint))).outcome

/-- UNPACK.UNSUPPORTED: a COMP value that selects no operation faults (R90, R118 test 2, R223). -/
def execUnpackUnsupported (value : Byte) (s : State) : Host.Outcome State Fault Refusal :=
  .next (s.raise .unsupportedCompression value.toNat)

end Sys2Proof.Machine
end

