-- ==== Sys2Proof/Machine/HostCommands.lean ====
section
/-!
DEFINITION. The ten host commands (spec/40_host_commands.md). Each is one indivisible transaction, accepted or dropped
by PHASE alone (R110).
-/

namespace Sys2Proof.Machine

/-- RESET (R111). -/
def execReset (s : State) : Host.Outcome State Fault Refusal := .next s.resetBlock

/-- HDR_LOAD (R112). -/
def execHdrLoad (width height : U16) (planeCount compressionMode : Byte) (s : State) :
    Host.Outcome State Fault Refusal :=
  .next (acceptedInIdle (fun t =>
    { t with width := width, height := height, nplanes := planeCount, comp := compressionMode, hdrValid := true }) s)

/-- MODE_LOAD (R113). -/
def execModeLoad (mode : U32) (s : State) : Host.Outcome State Fault Refusal :=
  .next (acceptedInIdle (fun t => { t with mode := mode }) s)

/-- PAL_CLEAR (R114): the entries keep their contents. -/
def execPalClear (s : State) : Host.Outcome State Fault Refusal :=
  .next (acceptedInIdle (fun t => { t with palCount := 0, palOvf := false }) s)

/-- The effect of PAL_PUSH (R115). -/
def State.palAppend (s : State) (r g b : Byte) : State :=
  if s.palCount < s.cfg.palDepth then
    { s with pal := regWrite s.pal s.palCount ⟨r, g, b, Const.alphaOpaque⟩, palCount := s.palCount + 1 }
  else { s with palOvf := true }

/-- PAL_PUSH (R115). -/
def execPalPush (r g b : Byte) (s : State) : Host.Outcome State Fault Refusal :=
  .next (acceptedInIdle (fun t => t.palAppend r g b) s)

/-- SRC_CLEAR (R116). -/
def execSrcClear (s : State) : Host.Outcome State Fault Refusal :=
  .next (acceptedInIdle (fun t => { t with srcLen := 0, srcOvf := false }) s)

/-- The effect of SRC_PUSH (R117). -/
def State.srcAppend (s : State) (v : Byte) : State :=
  if s.srcLen < s.cfg.srcDepth then { s with src := memWrite s.src s.srcLen v, srcLen := s.srcLen + 1 }
  else { s with srcOvf := true }

/-- SRC_PUSH (R117). -/
def execSrcPush (v : Byte) (s : State) : Host.Outcome State Fault Refusal :=
  .next (acceptedInIdle (fun t => t.srcAppend v) s)

/-- START's launch, when every test has passed (R119): the units run in the steps that follow. -/
def State.launch (s : State) : State :=
  { s with phase := .busy, srcPc := 0, pbFill := 0, wpalCount := 0, prev := Const.rowStart, stage := .unpack }

/-- START's tests 3 to 7 (R118), in their order, and the launch. -/
def State.startRest (s : State) : State :=
  if s.nplanes.toNat > s.cfg.maxPlanes then s.raise .configRange 1
  else if s.palOvf then s.raise .configRange 2
  else if s.srcOvf then s.raise .configRange 3
  else if s.pbSize > s.cfg.pbDepth then s.raise .configRange 4
  else if s.npix > s.cfg.pixDepth then s.raise .configRange 5
  else s.launch

/-- START (R118, R119): dropped outside IDLE; test 1 is the header, test 2 the COMP register, whose value that selects
no operation is the instruction UNPACK.UNSUPPORTED. -/
def execStart (s : State) : Host.Outcome State Fault Refusal :=
  if s.phase ≠ .idle then .next s.dropCommand
  else if s.hdrValid = false then .next (s.raise .missingDependency 0)
  else if s.comp ≠ Const.compNone ∧ s.comp ≠ Const.compRle then execUnpackUnsupported s.comp s
  else .next s.startRest

/-- The registers by number (spec/10_state.md R40); a number above 12 names none and reads 0 (R120). -/
def State.regValue (s : State) : Nat → Nat
  | 0 => s.width.toNat
  | 1 => s.height.toNat
  | 2 => s.nplanes.toNat
  | 3 => s.comp.toNat
  | 4 => s.mode.toNat
  | 5 => s.status.toNat
  | 6 => s.err.toNat
  | 7 => s.errInfo.toNat
  | 8 => s.palCount
  | 9 => s.wpalCount
  | 10 => s.srcLen
  | 11 => s.srcPc
  | 12 => s.pbFill
  | _ => 0

/-- The largest value of a register whose value the spec does not fix while BUSY (R40: "any value of the register's
range"); none for the registers that are exact in every phase. -/
def State.openRange (s : State) : Nat → Option Nat
  | 9 => some s.cfg.palDepth
  | 11 => some s.srcLen
  | 12 => some s.pbSize
  | _ => none

/-- What the next free value is, brought into `0 .. top` (log entry 11). -/
def State.freeUpTo (s : State) (top : Nat) : Nat := Config.freeValue s.freeCount % (top + 1)

/-- A register read whose number names a register (R120, R40). -/
def State.readReg (s : State) (no : Nat) : State :=
  match s.phase, s.openRange no with
  | .busy, some top => { s with reply := some (.reg (s.freeUpTo top)), freeCount := s.freeCount + 1 }
  | _, _ => { s with reply := some (.reg (s.regValue no)) }

/-- REG_READ (R120): a number above 12 returns 0 and sets CMD_ERR. -/
def execRegRead (no : Nat) (s : State) : Host.Outcome State Fault Refusal :=
  if no ≤ 12 then .next (s.readReg no)
  else .next { s with reply := some (.reg 0), cmdErr := true }

/-- FB_READ (R121). -/
def execFbRead (k : Nat) (s : State) : Host.Outcome State Fault Refusal :=
  if s.phase = .done ∧ k < s.npix then
    (readOrStuck .fb s.fb k (fun px => .goesOn { s with reply := some (.pixel px) })).outcome
  else .next { s with reply := some (.pixel Rgba.zero), cmdErr := true }

end Sys2Proof.Machine
end

