-- ==== Sys2Proof/Machine/Dispatch.lean ====
section
/-! DEFINITION. One arm per instruction, each one direct call of the instruction's meaning. -/

namespace Sys2Proof.Machine

-- the RLE stream, the pixel codes, the selections of COMP and MODE, DEINT, the host commands
def exec (i : Instr) (s : State) : Host.Outcome State Fault Refusal :=
  match i with
  | .lit n => Sys2Proof.Machine.execLit n s
  | .rep n => Sys2Proof.Machine.execRep n s
  | .rsvd => Sys2Proof.Machine.execRsvd s
  | .idx index => Sys2Proof.Machine.execIdx index s
  | .hamSet index => Sys2Proof.Machine.execHamSet index s
  | .hamModG b three val => Sys2Proof.Machine.execHamModG b three val s
  | .hamModB b val => Sys2Proof.Machine.execHamModB b val s
  | .hamModR b val => Sys2Proof.Machine.execHamModR b val s
  | .unpackRaw => Sys2Proof.Machine.execUnpackRaw s
  | .unpackRle => Sys2Proof.Machine.execUnpackRle s
  | .unpackUnsupported value => Sys2Proof.Machine.execUnpackUnsupported value s
  | .deint => Sys2Proof.Machine.execDeint s
  | .fixEhb => Sys2Proof.Machine.execFixEhb s
  | .fixHamcull => Sys2Proof.Machine.execFixHamcull s
  | .fixPass => Sys2Proof.Machine.execFixPass s
  | .compDirect => Sys2Proof.Machine.execCompDirect s
  | .compHam => Sys2Proof.Machine.execCompHam s
  | .reset => Sys2Proof.Machine.execReset s
  | .hdrLoad width height planeCount compressionMode => Sys2Proof.Machine.execHdrLoad width height planeCount compressionMode s
  | .modeLoad mode => Sys2Proof.Machine.execModeLoad mode s
  | .palClear => Sys2Proof.Machine.execPalClear s
  | .palPush r g b => Sys2Proof.Machine.execPalPush r g b s
  | .srcClear => Sys2Proof.Machine.execSrcClear s
  | .srcPush v => Sys2Proof.Machine.execSrcPush v s
  | .start => Sys2Proof.Machine.execStart s
  | .regRead no => Sys2Proof.Machine.execRegRead no s
  | .fbRead k => Sys2Proof.Machine.execFbRead k s

end Sys2Proof.Machine
end

