-- ==== Sys2Proof/Machine/Sequencer.lean ====
section
/-!
DEFINITION. The sequencer of START (spec/40_host_commands.md R119): which instruction the running unit executes next,
where it is fetched and decoded, and the steps between units that run no instruction (the normal stop of UNPACK.RLE,
spec/41_rle_decompressor.md R138, and the arrival at DONE, spec/44_pixel_compositor.md R180; log entry 3).
-/

namespace Sys2Proof.Machine

/-- Runs what a pattern decodes to. -/
def runDecoded (sp : Space) (raw : Raw) (s : State) : Host.Outcome State Fault Refusal :=
  match decode sp raw with
  | .ok i => exec i s
  | .error why => .refused (.undecodable why)

/-- The test of R132's loop, the "output full" test first. -/
def State.rleGoesOn (s : State) : Bool := s.pbFill < s.pbSize && s.srcPc < s.srcLen

/-- One pass of UNPACK.RLE's loop: fetch, decode, execute (R132, R133), or the normal stop and on to DEINT (R138). -/
def rleStep (s : State) : Host.Outcome State Fault Refusal :=
  if s.rleGoesOn then
    match memRead s.src s.srcPc with
    | some c => runDecoded .rle (.byte c) { s with srcPc := s.srcPc + 1 }
    | none => .fault (.unwritten .src s.srcPc)
  else .next (s.goto .deint)

/-- PREV at a pixel: in HAM mode the first pixel of every row starts from ROW_START (R172). -/
def State.rowStart (s : State) : State :=
  if s.ham ∧ s.pix % s.width.toNat = 0 then s.setPrev Const.rowStart else s

/-- One pixel of COMP (R171, R172), or the end of the image and DONE (R180, R119). -/
def pixelStep (s : State) : Host.Outcome State Fault Refusal :=
  if s.pix < s.npix then
    match memRead s.cb s.pix with
    | some c => runDecoded s.pixelSpace (.byte c) s.rowStart
    | none => .fault (.unwritten .cb s.pix)
  else .next { s with phase := .done }

/-- The next step of a running decode. -/
def unitStep (s : State) : Host.Outcome State Fault Refusal :=
  match s.stage with
  | .unpack => runDecoded .compSel (.byte s.comp) s
  | .rle => rleStep s
  | .deint => exec .deint s
  | .fix => runDecoded .fixSel (.mode s.mode) s
  | .comp => runDecoded .compositorSel (.mode s.mode) s
  | .pixels => pixelStep s

/-- The block without a command arriving: a unit runs while BUSY; IDLE, DONE and FAULT are quiescent
(spec/60_exceptions.md R240). -/
def blockStep (s : State) : Host.Outcome State Fault Refusal :=
  match s.phase with
  | .busy => unitStep s
  | .idle | .done | .fault => .next s

/-- A host command that has arrived (R110). -/
def commandStep (cmd : Instr) (s : State) : Host.Outcome State Fault Refusal :=
  if cmd.isHostCommand then exec cmd s else .refused .notAHostCommand

/-- The longest instruction of the RLE stream, in bytes: LIT with COUNT 128 (R83). -/
def longestRle : Nat := 129

/-- The bytes of an instruction placed from index `a` on, least significant byte of `w` first, `count` of them. -/
def placeBytes (w : Nat) : Nat → Nat → List Host.Cell → List Host.Cell
  | 0, _, m => m
  | count + 1, a, m => placeBytes (w / 256) count (a + 1) (memWrite m a (BitVec.ofNat 8 w))

/-- A geometry whose plane buffer takes a whole instruction: 1024 by 1, one plane, PB_SIZE 128. -/
def State.withRoom (s : State) : State :=
  { s with width := 1024, height := 1, nplanes := 1, pbFill := 0 }

/-- A running decode with no command due, at a given unit; a decode runs only with a header (R118). -/
def State.runningAt (s : State) (st : Stage) : State :=
  { s with phase := .busy, hdrValid := true, inbox := [], stage := st }

/-- An instruction of the RLE stream placed where the loop of R132 fetches next: the span holds it, the loop's guard
holds. -/
def State.withRleWord (s : State) (w : Nat) : State :=
  let t := s.withRoom.runningAt .rle
  { t with comp := Const.compRle, src := placeBytes w longestRle t.srcPc t.src, srcLen := t.srcPc + longestRle }

/-- A MODE word placed where FIX reads its selection next. -/
def State.withModeWord (s : State) (w : Nat) : State :=
  { s.runningAt .fix with mode := BitVec.ofNat 32 w }

end Sys2Proof.Machine
end

