-- ==== Sys2Proof/Machine/Step.lean ====
section
/-!
DEFINITION. One step of the machine, and the placing of an instruction where the next step runs it. Everything either
computes stands in Machine/Sequencer.lean.
-/

namespace Sys2Proof.Machine

/-- One step: a host command that is due runs as one transaction (spec/40_host_commands.md R110); otherwise the block
moves, and a command still on its way comes one step nearer (log entry 1). -/
def step (s : State) : Host.Outcome State Fault Refusal :=
  match s.inbox with
  | [] => blockStep s
  | ⟨0, cmd⟩ :: rest => commandStep cmd { s with inbox := rest }
  | ⟨after + 1, cmd⟩ :: rest => blockStep { s with inbox := ⟨after, cmd⟩ :: rest }

/-- `s` with the instruction of bits `w` placed where the very next step runs it (log entry 17): a 32-bit row is the
MODE word that FIX reads, every other the RLE stream that UNPACK.RLE fetches. -/
def State.withFetchWord (s : State) (nbits w : Nat) : State :=
  if nbits = 32 then s.withModeWord w else s.withRleWord w

end Sys2Proof.Machine
end

