-- ==== Sys2Proof/Machine/Container.lean ====
section
/-!
DEFINITION. The host's side of the contract (spec/45_host_container_protocol.md), first half: from the bytes of a
container file to the commands the host issues to the block and the by-products it keeps. It is surrounding software
(spec/00_scope.md R4); the machine never calls it. Machine/Driver.lean runs the commands on the block. Log entry 21.
-/

namespace Sys2Proof.Machine

/-- The host's parameters (R192). -/
structure HostParams where
  /-- MAGIC. -/
  magic : List Byte
  /-- FORMAT_TAGS. -/
  formatTags : List (List Byte)
deriving DecidableEq, Repr

/-- The host's parameters for the file format the document describes: `FORM` and `ILBM` (general knowledge G2, log
entry 21). -/
def HostParams.default : HostParams where
  magic := [0x46, 0x4F, 0x52, 0x4D]
  formatTags := [[0x49, 0x4C, 0x42, 0x4D]]

/-- The outer framing (R192): the declared length is read and validated against nothing. -/
structure ContainerHeader where
  formatTag : List Byte
  declaredLength : U32
deriving DecidableEq, Repr

/-- The chunk tags of R197. -/
inductive ChunkKind where
  | bmhd
  | cmap
  | camg
  | body
  | crng
  | other
deriving DecidableEq, Repr

/-- Dispatch by the four ASCII bytes of the tag (R197, R199). -/
def chunkKind (tag : List Byte) : ChunkKind :=
  if tag = [0x42, 0x4D, 0x48, 0x44] then .bmhd
  else if tag = [0x43, 0x4D, 0x41, 0x50] then .cmap
  else if tag = [0x43, 0x41, 0x4D, 0x47] then .camg
  else if tag = [0x42, 0x4F, 0x44, 0x59] then .body
  else if tag = [0x43, 0x52, 0x4E, 0x47] then .crng
  else .other

/-- An unsigned big-endian number (R191, spec/20_memory.md R64). -/
def bigEndian (bs : List Byte) : Nat := bs.foldl (fun acc b => acc * 256 + b.toNat) 0

/-- `count` bytes at offset `o` as a big-endian number. -/
def fieldAt (bs : List Byte) (o count : Nat) : Nat := bigEndian ((bs.drop o).take count)

/-- The header record of R200; the fields after `compressionMode` do not reach the block (R202). -/
structure BitmapHeader where
  width : U16
  height : U16
  planeCount : Byte
  compressionMode : Byte
  originX : Int
  originY : Int
  maskMode : Byte
  pad : Byte
  transparentColorIndex : U16
  pixelAspectX : Byte
  pixelAspectY : Byte
  pageWidth : Int
  pageHeight : Int
deriving DecidableEq, Repr

/-- An int16 of the wire format (R191). -/
def int16At (bs : List Byte) (o : Nat) : Int := (BitVec.ofNat 16 (fieldAt bs o 2)).toInt

/-- The fixed-layout parse of a BMHD payload (R200). -/
def parseHeader (bs : List Byte) : BitmapHeader where
  width := BitVec.ofNat 16 (fieldAt bs 0 2)
  height := BitVec.ofNat 16 (fieldAt bs 2 2)
  originX := int16At bs 4
  originY := int16At bs 6
  planeCount := BitVec.ofNat 8 (fieldAt bs 8 1)
  maskMode := BitVec.ofNat 8 (fieldAt bs 9 1)
  compressionMode := BitVec.ofNat 8 (fieldAt bs 10 1)
  pad := BitVec.ofNat 8 (fieldAt bs 11 1)
  transparentColorIndex := BitVec.ofNat 16 (fieldAt bs 12 2)
  pixelAspectX := BitVec.ofNat 8 (fieldAt bs 14 1)
  pixelAspectY := BitVec.ofNat 8 (fieldAt bs 15 1)
  pageWidth := int16At bs 16
  pageHeight := int16At bs 18

/-- A ColorRange (R207), recorded and never consumed. -/
structure ColorRange where
  rate : U16
  active : Bool
  reverse : Bool
  lowerIndex : Byte
  upperIndex : Byte
deriving DecidableEq, Repr

/-- A CRNG payload (R207). -/
def parseColorRange (bs : List Byte) : ColorRange where
  rate := BitVec.ofNat 16 (fieldAt bs 2 2)
  active := (fieldAt bs 4 2).testBit 0
  reverse := (fieldAt bs 4 2).testBit 1
  lowerIndex := BitVec.ofNat 8 (fieldAt bs 6 1)
  upperIndex := BitVec.ofNat 8 (fieldAt bs 7 1)

/-- How the host's parsing ends (R193, R198, R208). -/
inductive HostVerdict where
  | parsed
  | notAContainer
  | malformedChunk
deriving DecidableEq, Repr

/-- An entry of the chunk list (R209): the tag, the payload, and whether the chunk was skipped as unknown (R199). -/
structure Chunk where
  tag : List Byte
  payload : List Byte
  skipped : Bool
deriving DecidableEq, Repr

/-- What the host's parsing of a file gives (R209, R211): the commands for the block, in order, and the by-products. -/
structure HostSession where
  commands : List Instr
  container : Option ContainerHeader
  chunks : List Chunk
  header : Option BitmapHeader
  ranges : List ColorRange
  bodySeen : Bool
  verdict : HostVerdict
deriving DecidableEq, Repr

/-- Issues commands, but none after the pixel data (R210). -/
def HostSession.issue (h : HostSession) (cmds : List Instr) : HostSession :=
  if h.bodySeen then h else { h with commands := h.commands ++ cmds }

/-- The PAL_PUSHes of a CMAP payload: three bytes an entry, a shorter tail skipped (R203). -/
def palPushes : List Byte → List Instr
  | r :: g :: b :: rest => .palPush r g b :: palPushes rest
  | _ => []

/-- The payload's decoder would read past the chunk (R198). -/
def HostSession.malformed (h : HostSession) : HostSession := { h with verdict := .malformedChunk }

/-- A header that has been read: it is sent to the block and kept as the by-product of R209. After the pixel data it
is neither: DESIGN CHOICE (log entry 21), the spec does not say which of several headers the host hands on, and so the
one kept is the one that describes the image. -/
def HostSession.takeHeader (h : HostSession) (hd : BitmapHeader) : HostSession :=
  if h.bodySeen then h
  else { h with header := some hd }.issue [.hdrLoad hd.width hd.height hd.planeCount hd.compressionMode]

/-- What the decoder of a chunk does (R197, R201, R203 to R205, R207). -/
def HostSession.dispatch (h : HostSession) (tag payload : List Byte) : HostSession :=
  match chunkKind tag with
  | .bmhd => if payload.length < 20 then h.malformed else h.takeHeader (parseHeader payload)
  | .cmap => h.issue (.palClear :: palPushes payload)
  | .camg =>
    if payload.length < 4 then h.malformed
    else h.issue [.modeLoad (BitVec.ofNat 32 (fieldAt payload 0 4))]
  | .body => { h.issue (.srcClear :: payload.map .srcPush ++ [.start]) with bodySeen := true }
  | .crng =>
    if payload.length < 8 then h.malformed
    else { h with ranges := h.ranges ++ [parseColorRange payload] }
  | .other => h

/-- A chunk is recorded in the chunk list, an unknown one as skipped (R199, R209). -/
def HostSession.record (h : HostSession) (tag payload : List Byte) : HostSession :=
  { h with chunks := h.chunks ++ [Chunk.mk tag payload (chunkKind tag = .other)] }

/-- One chunk: recorded, and given to its decoder (R194). -/
def HostSession.chunk (h : HostSession) (tag payload : List Byte) : HostSession :=
  (h.record tag payload).dispatch tag payload

/-- The chunk loop (R194 to R196, R198): a chunk header cut by the end of the buffer and a payload longer than what is
left are MalformedChunk; a missing final pad byte is tolerated. `fuel` bounds the number of chunks. -/
def chunkLoop : (fuel : Nat) → List Byte → HostSession → HostSession
  | 0, _, h => h
  | fuel + 1, bs, h =>
    if bs = [] then h
    else if bs.length < 8 then h.malformed
    else
      let len := fieldAt bs 4 4
      let rest := bs.drop 8
      if rest.length < len then h.malformed
      else
        let h' := h.chunk (bs.take 4) (rest.take len)
        if h'.verdict = .malformedChunk then h' else chunkLoop fuel (rest.drop (len + len % 2)) h'

/-- The session before anything is parsed. -/
def HostSession.empty : HostSession where
  commands := []
  container := none
  chunks := []
  header := none
  ranges := []
  bodySeen := false
  verdict := .notAContainer

/-- A whole container (R192, R193): nothing is issued for what is no container; a session begins with RESET (R211,
spec/70_reset_and_hazards.md R253). -/
def hostDecode (p : HostParams) (file : List Byte) : HostSession :=
  let formatTag := (file.drop 8).take 4
  if file.length ≤ 12 ∨ file.take 4 ≠ p.magic ∨ formatTag ∉ p.formatTags then .empty
  else
    chunkLoop file.length (file.drop 12)
      { HostSession.empty with
        commands := [.reset]
        container := some ⟨formatTag, BitVec.ofNat 32 (fieldAt file 4 4)⟩
        verdict := .parsed }

end Sys2Proof.Machine
end

