-- ==== Sys2Proof/Machine/Driver.lean ====
section
/-!
DEFINITION. The host's side of the contract (spec/45_host_container_protocol.md), second half: a session on the block
(R211, spec/70_reset_and_hazards.md R253), from RESET to DONE or FAULT. The host issues the commands of the file, waits,
and then copies the image out or reads the fault. It is surrounding software; the machine never calls it. Log entries
21 and 24.
-/

namespace Sys2Proof.Machine

/-- How an exchange with the block ends: a value, or a stop of the model. -/
abbrev Exchange (α : Type) := Host.Outcome α Fault Refusal

/-- One exchange after another. -/
def Exchange.andThen {α β : Type} : Exchange α → (α → Exchange β) → Exchange β
  | .next a, k => k a
  | .fault r, _ => .fault r
  | .refused r, _ => .refused r

/-- The host issues a command when the block has no other on its way, and the block runs it. -/
def issueCommand (cmd : Instr) (s : State) : Exchange State := step { s with inbox := [⟨0, cmd⟩] }

/-- The host issues nothing, and the block moves. -/
def letRun (s : State) : Exchange State := step { s with inbox := [] }

/-- The host issues commands one after the other. -/
def issueAll : List Instr → State → Exchange State
  | [], s => .next s
  | cmd :: cmds, s => (issueCommand cmd s).andThen (issueAll cmds)

/-- The number in the last reply. -/
def State.replyNumber (s : State) : Nat :=
  match s.reply with
  | some (.reg v) => v
  | some (.pixel _) | none => 0

/-- The pixel in the last reply. -/
def State.replyPixel (s : State) : Rgba :=
  match s.reply with
  | some (.pixel px) => px
  | some (.reg _) | none => Rgba.zero

/-- REG_READ by the host (R120): the value, and the block after it. -/
def readRegister (no : Nat) (s : State) : Exchange (Nat × State) :=
  (issueCommand (.regRead no) s).andThen (fun t => .next (t.replyNumber, t))

/-- FB_READ of `count` pixels from index `k` on (R121). -/
def readPixels : (count k : Nat) → State → Exchange (List Rgba × State)
  | 0, _, s => .next ([], s)
  | count + 1, k, s =>
    (issueCommand (.fbRead k) s).andThen (fun t =>
      (readPixels count (k + 1) t).andThen (fun r => .next (t.replyPixel :: r.1, r.2)))

/-- The PHASE field of STATUS as the host sees it (spec/10_state.md R23). -/
def phaseField (status : Nat) : Nat := status % 4

/-- The host waits for DONE or FAULT (R205, R253 step 5): it reads STATUS, and while PHASE is BUSY it lets the block
move and reads again, at most `fuel` times. -/
def waitForEnd : (fuel : Nat) → State → Exchange State
  | 0, s => .next s
  | fuel + 1, s =>
    (readRegister 5 s).andThen (fun r =>
      if phaseField r.1 = Phase.busy.code.toNat then (letRun r.2).andThen (waitForEnd fuel) else .next r.2)

/-- Enough readings of STATUS for every decode of the span and the geometry (spec/70_reset_and_hazards.md R261). -/
def State.waitBound (s : State) : Nat := s.srcLen + s.npix + 7

/-- The document's DecodedImage (spec/40_host_commands.md R124). -/
structure DecodedImage where
  width : Nat
  height : Nat
  pixels : List Rgba
deriving DecidableEq, Repr

/-- The image is copied out of the block (R209, R211, R253 step 6). -/
def readImage (s : State) : Exchange (DecodedImage × State) :=
  (readRegister 0 s).andThen (fun w =>
    (readRegister 1 w.2).andThen (fun h =>
      (readPixels (w.1 * h.1) 0 h.2).andThen (fun px => .next (⟨w.1, h.1, px.1⟩, px.2))))

/-- The typed error the host surfaces (R208): a fault of the block with the ERR and ERR_INFO it recorded (R205), or a
MalformedChunk of the container (R198). -/
inductive HostError where
  | block (err info : Nat)
  | malformedChunk
deriving DecidableEq, Repr

/-- The fault of the block is read (R205, R253 step 6). -/
def readError (s : State) : Exchange (HostError × State) :=
  (readRegister 6 s).andThen (fun e =>
    (readRegister 7 e.2).andThen (fun i => .next (.block e.1 i.1, i.2)))

/-- What a session gives the caller (R208, R209): the image or the one error, or neither for what is no container or
has no pixel data; and the by-products of the parsing. -/
structure HostResult where
  image : Option DecodedImage
  error : Option HostError
  parsed : HostSession
deriving DecidableEq, Repr

/-- The error of the container, where its parsing met one. -/
def HostSession.containerError (h : HostSession) : Option HostError :=
  if h.verdict = .malformedChunk then some .malformedChunk else none

/-- The block has been started on the pixel data: the host waits, and then copies the image out or reads the fault
(R205). An anomaly of a chunk after the pixel data discards the image, since none is returned on a hard error (R208).
DESIGN CHOICE (log entry 24): R209 names the by-products only on success; here they are handed on with an error too, and
after a fault of the block also those of the chunks that follow the pixel data. -/
def finishSession (h : HostSession) (s : State) : Exchange (HostResult × State) :=
  (waitForEnd s.waitBound s).andThen (fun t =>
    (readRegister 5 t).andThen (fun st =>
      if phaseField st.1 = Phase.done.code.toNat then
        (readImage st.2).andThen (fun im =>
          .next (⟨if h.containerError = none then some im.1 else none, h.containerError, h⟩, im.2))
      else (readError st.2).andThen (fun e => .next (⟨none, some e.1, h⟩, e.2))))

/-- A session of the host on a block (R211): nothing is issued for what is no container (R193), and the block is
started only by the pixel data (R205). The block is left as the session ended; the next session's RESET comes after the
image has been copied out. -/
def runSession (p : HostParams) (file : List Byte) (s : State) : Exchange (HostResult × State) :=
  let h := hostDecode p file
  (issueAll h.commands s).andThen (fun t =>
    if h.bodySeen then finishSession h t else .next (⟨none, h.containerError, h⟩, t))

/-! ### The end-to-end check of the host protocol (R212) -/

/-- The minimal container of R212, its 64 bytes as spec/95_test_vectors.md S8 lists them. -/
def exampleContainer : List Byte :=
  [0x46, 0x4F, 0x52, 0x4D, 0x00, 0x00, 0x00, 0x38, 0x49, 0x4C, 0x42, 0x4D,
   0x42, 0x4D, 0x48, 0x44, 0x00, 0x00, 0x00, 0x14,
   0x00, 0x08, 0x00, 0x01, 0x00, 0x00, 0x00, 0x00, 0x01, 0x00, 0x00, 0x00, 0x00, 0x00, 0x01, 0x01, 0x00, 0x08,
   0x00, 0x01,
   0x43, 0x4D, 0x41, 0x50, 0x00, 0x00, 0x00, 0x06, 0x00, 0x00, 0x00, 0xFF, 0xFF, 0xFF,
   0x42, 0x4F, 0x44, 0x59, 0x00, 0x00, 0x00, 0x01, 0xC0, 0x00]

/-- The image R212 gives for it: 8 wide, 1 high (spec/90_conflicts.md C6), two white pixels and six black ones. -/
def exampleImage : DecodedImage where
  width := 8
  height := 1
  pixels :=
    [⟨255, 255, 255, 255⟩, ⟨255, 255, 255, 255⟩, ⟨0, 0, 0, 255⟩, ⟨0, 0, 0, 255⟩, ⟨0, 0, 0, 255⟩, ⟨0, 0, 0, 255⟩,
      ⟨0, 0, 0, 255⟩, ⟨0, 0, 0, 255⟩]

end Sys2Proof.Machine
end

