-- ==== Sys2Proof/Safety.lean ====
section
/-!
DEFINITION. What a good state is: the invariant that every step keeps and under which no step stops, and the terms the
statements use.
-/

namespace Sys2Proof.Machine

/-- The parameters are in the ranges the spec gives them, the memories in canonical form. -/
abbrev FormInv (s : State) : Prop := s.cfg.Legal ∧ Memory.wf s = true

/-- PAL, WPAL and PREV: counts within PAL_DEPTH, every defined entry opaque (R26, R27, spec/44_pixel_compositor.md
R181). -/
abbrev PaletteInv (s : State) : Prop :=
  s.palCount ≤ s.cfg.palDepth ∧ (∀ k < s.palCount, (regRead s.pal k).a = Const.alphaOpaque) ∧
    s.wpalCount ≤ s.cfg.palDepth ∧ (∀ k < s.wpalCount, (regRead s.wpal k).a = Const.alphaOpaque) ∧
    s.prev.a = Const.alphaOpaque

/-- The span and the plane buffer: every byte below SRC_LEN and below PB_FILL has been written, SRC_PC and PB_FILL are
in range (R30 to R33). -/
abbrev StreamInv (s : State) : Prop :=
  s.srcLen ≤ s.cfg.srcDepth ∧ memFilled s.src s.srcLen = true ∧ s.srcPc ≤ s.srcLen ∧
    s.pbFill ≤ s.pbSize ∧ memFilled s.pb s.pbFill = true

/-- The phase: FAULT exactly when a fault is recorded (R29), and IDLE only as RESET left the working registers
(spec/70_reset_and_hazards.md R252). -/
abbrev PhaseInv (s : State) : Prop :=
  (s.phase = .fault ↔ s.err ≠ 0) ∧ (s.err = 0 → s.errInfo = 0) ∧
    (s.phase = .idle → s.srcPc = 0 ∧ s.pbFill = 0 ∧ s.wpalCount = 0)

/-- A decode that runs or has run passed START's tests (spec/40_host_commands.md R118). -/
abbrev AcceptedInv (s : State) : Prop :=
  s.phase = .busy ∨ s.phase = .done →
    s.hdrValid = true ∧ (s.comp = Const.compNone ∨ s.comp = Const.compRle) ∧ s.nplanes.toNat ≤ s.cfg.maxPlanes ∧
      s.palOvf = false ∧ s.srcOvf = false ∧ s.pbSize ≤ s.cfg.pbDepth ∧ s.npix ≤ s.cfg.pixDepth

/-- Every pixel below `n` has been written and is opaque (R35, R181). -/
def imageFilled (fb : List (Nat × Rgba)) (n : Nat) : Bool :=
  (List.range n).all (fun k => match memRead fb k with
    | some px => px.a = Const.alphaOpaque
    | none => false)

/-- What each unit finds when it runs: CB whole after DEINT (R34), FB written up to the pixel the loop is at, the
address width at most 8 in HAM mode (R179). -/
abbrev UnitInv (s : State) : Prop :=
  s.phase = .busy →
    (s.stage = .fix ∨ s.stage = .comp ∨ s.stage = .pixels → memFilled s.cb s.npix = true) ∧
      (s.stage = .pixels →
        s.pix ≤ s.npix ∧ imageFilled s.fb s.pix = true ∧ (s.ham = true → s.wpalBits ≤ 8))

/-- In DONE the image is whole (R35, R257). -/
abbrev ImageInv (s : State) : Prop := s.phase = .done → imageFilled s.fb s.npix = true

/-- Only host commands are on their way (spec/30_encoding.md R94). -/
abbrev InboxInv (s : State) : Prop := s.inbox.all (fun a => a.cmd.isHostCommand) = true

/-- The invariant. -/
abbrev StateInv (s : State) : Prop :=
  FormInv s ∧ PaletteInv s ∧ StreamInv s ∧ PhaseInv s ∧ AcceptedInv s ∧ UnitInv s ∧ ImageInv s ∧ InboxInv s

/-- A decode has ended (spec/70_reset_and_hazards.md R261). -/
abbrev Finished (s : State) : Prop := s.phase = .done ∨ s.phase = .fault

/-- Two states hold the same inputs of a decode (spec/40_host_commands.md R124): the header, MODE, the loaded palette
and the span, with the flags START tests and the parameters. -/
abbrev SameInputs (s t : State) : Prop :=
  s.cfg = t.cfg ∧ s.hdrValid = t.hdrValid ∧ s.palOvf = t.palOvf ∧ s.srcOvf = t.srcOvf ∧
    s.width = t.width ∧ s.height = t.height ∧ s.nplanes = t.nplanes ∧ s.comp = t.comp ∧ s.mode = t.mode ∧
    s.palCount = t.palCount ∧ (∀ k < s.palCount, regRead s.pal k = regRead t.pal k) ∧
    s.srcLen = t.srcLen ∧ (∀ a < s.srcLen, memRead s.src a = memRead t.src a)

/-- The host command that arrives at the next step. -/
def State.due (s : State) : Option Instr :=
  match s.inbox with
  | ⟨0, cmd⟩ :: _ => some cmd
  | ⟨_ + 1, _⟩ :: _ | [] => none

/-- The state a unit step starts from when no command arrives: a command on its way comes one step nearer. -/
def State.tick (s : State) : State :=
  match s.inbox with
  | ⟨n + 1, cmd⟩ :: rest => { s with inbox := ⟨n, cmd⟩ :: rest }
  | ⟨0, _⟩ :: _ | [] => s

/-- A unit at one of the given stages runs at the next step: the block is BUSY and no command arrives. -/
abbrev State.runs (s : State) (stages : List Stage) : Prop :=
  s.phase = .busy ∧ s.due = none ∧ s.stage ∈ stages

/-- `n` steps, stopping at the first fault or refusal. -/
def runSteps : Nat → State → Host.Outcome State Fault Refusal
  | 0, s => .next s
  | n + 1, s =>
    match step s with
    | .next t => runSteps n t
    | .fault r => .fault r
    | .refused r => .refused r

/-- A block to which the host has just sent START and nothing else. -/
def State.started (s : State) : State := { s with inbox := [⟨0, .start⟩] }

/-- Every register, flag and count has its value of the table in spec/10_state.md R39. -/
abbrev AtResetValues (s : State) : Prop :=
  s.width = 0 ∧ s.height = 0 ∧ s.nplanes = 0 ∧ s.comp = 0 ∧ s.mode = 0 ∧ s.phase = .idle ∧ s.hdrValid = false ∧
    s.palOvf = false ∧ s.srcOvf = false ∧ s.cmdErr = false ∧ s.err = 0 ∧ s.errInfo = 0 ∧ s.palCount = 0 ∧
    s.wpalCount = 0 ∧ s.prev = ⟨0, 0, 0, 255⟩ ∧ s.srcLen = 0 ∧ s.srcPc = 0 ∧ s.pbFill = 0

/-- PBYTE of spec/42_deinterleaver.md R153 as a value: what UNPACK wrote, 0 beyond PB_FILL. -/
def State.planeByte (s : State) (a : Nat) : Byte :=
  if a < s.pbFill then (memRead s.pb a).getD 0 else 0

/-- A place DEINT reads: byte `i` of plane `p` of scanline `y` covers a real column (R152, R154). -/
abbrev State.needs (s : State) (y p i : Nat) : Prop :=
  y < s.height.toNat ∧ p < s.nplanes.toNat ∧ i < s.rowBytes

/-- Every byte DEINT needs has been written (R153). -/
abbrev State.bodyLongEnough (s : State) : Prop :=
  ∀ y p i, s.needs y p i → s.pbOff y p i < s.pbFill

end Sys2Proof.Machine
end

