-- ==== Sys2Proof/Certificates/Slice0/Obligations.lean ====
section
/-!
DEFINITION. The statements for the provers. Each docstring names the rule of spec/ it formalises, or says that the
statement rests on an inference of the spec or on a choice of the model.
-/

open Sys2Proof Sys2Proof.Machine

/-! ### Reset and the host commands -/

/-- R111, R39: RESET, from any state, gives every register, flag and count its reset value; the reset state has them
too. The memories' contents after reset are no part of it (log entries 7, 8, 12). -/
def Obligations.ResetGivesTheResetValues : Prop :=
  AtResetValues State.reset ∧
    ∀ s : State, ∃ t, exec .reset s = .next t ∧ AtResetValues t ∧ t.cfg = s.cfg ∧ t.inbox = s.inbox

/-- The invariant of Safety.lean holds of the reset state. Derived: its clauses are R26 to R36, R39, R74. -/
def Obligations.ResetStateMeetsTheInvariant : Prop := StateInv State.reset

/-- R112: an accepted HDR_LOAD writes the four header registers and HDR_VALID and nothing else, whatever the values. -/
def Obligations.HdrLoadReplacesTheHeader : Prop :=
  ∀ (s : State) (w h : U16) (p c : Byte), s.phase = .idle →
    exec (.hdrLoad w h p c) s =
      .next { s with width := w, height := h, nplanes := p, comp := c, hdrValid := true }

/-- R113: an accepted MODE_LOAD writes MODE whole and nothing else; HAM and EHB follow from its bits 11 and 7. -/
def Obligations.ModeLoadWritesMode : Prop :=
  ∀ (s : State) (m : U32), s.phase = .idle →
    exec (.modeLoad m) s = .next { s with mode := m } ∧
      { s with mode := m }.ham = m.getLsbD 11 ∧ { s with mode := m }.ehb = m.getLsbD 7

/-- R22: HAM is bit 11 and EHB bit 7 of MODE, and no other bit changes either. -/
def Obligations.ModeFlagsAreBits11And7 : Prop :=
  ∀ s : State, s.ham = s.mode.getLsbD 11 ∧ s.ehb = s.mode.getLsbD 7

/-- R114, R115: PAL_CLEAR empties the palette and clears PAL_OVF; PAL_PUSH appends an opaque entry and changes no other,
or, when PAL is full, sets PAL_OVF and nothing else. -/
def Obligations.PaletteCommandsAppendAndClear : Prop :=
  ∀ (s : State) (r g b : Byte), s.phase = .idle →
    exec .palClear s = .next { s with palCount := 0, palOvf := false } ∧
    (s.palCount < s.cfg.palDepth →
      ∃ pal', exec (.palPush r g b) s = .next { s with pal := pal', palCount := s.palCount + 1 } ∧
        regRead pal' s.palCount = ⟨r, g, b, 255⟩ ∧ ∀ k, k ≠ s.palCount → regRead pal' k = regRead s.pal k) ∧
    (s.cfg.palDepth ≤ s.palCount → exec (.palPush r g b) s = .next { s with palOvf := true })

/-- R116, R117: SRC_CLEAR empties the span and clears SRC_OVF; SRC_PUSH appends a byte and changes no other, or, when
SRC is full, sets SRC_OVF and nothing else. -/
def Obligations.SpanCommandsAppendAndClear : Prop :=
  ∀ (s : State) (v : Byte), s.phase = .idle →
    exec .srcClear s = .next { s with srcLen := 0, srcOvf := false } ∧
    (s.srcLen < s.cfg.srcDepth →
      ∃ src', exec (.srcPush v) s = .next { s with src := src', srcLen := s.srcLen + 1 } ∧
        memRead src' s.srcLen = some v ∧ ∀ a, a ≠ s.srcLen → memRead src' a = memRead s.src a) ∧
    (s.cfg.srcDepth ≤ s.srcLen → exec (.srcPush v) s = .next { s with srcOvf := true })

/-- R122, R110: a load command or START outside IDLE changes no state except that it sets CMD_ERR. -/
def Obligations.DroppedCommandsOnlySetCmdErr : Prop :=
  ∀ (s : State) (i : Instr), s.phase ≠ .idle →
    (i = .palClear ∨ i = .srcClear ∨ i = .start ∨ (∃ w h p c, i = .hdrLoad w h p c) ∨ (∃ m, i = .modeLoad m) ∨
      (∃ r g b, i = .palPush r g b) ∨ (∃ v, i = .srcPush v)) →
    exec i s = .next { s with cmdErr := true }

/-- R118: START's seven tests, in their order; the first that fails raises its fault and nothing else has run. -/
def Obligations.StartTestsInOrder : Prop :=
  ∀ s : State, s.phase = .idle →
    (s.hdrValid = false → exec .start s = .next (s.raise .missingDependency 0)) ∧
    (s.hdrValid = true →
      (s.comp ≠ 0 → s.comp ≠ 1 → exec .start s = .next (s.raise .unsupportedCompression s.comp.toNat)) ∧
      (s.comp = 0 ∨ s.comp = 1 →
        (s.cfg.maxPlanes < s.nplanes.toNat → exec .start s = .next (s.raise .configRange 1)) ∧
        (s.nplanes.toNat ≤ s.cfg.maxPlanes →
          (s.palOvf = true → exec .start s = .next (s.raise .configRange 2)) ∧
          (s.palOvf = false →
            (s.srcOvf = true → exec .start s = .next (s.raise .configRange 3)) ∧
            (s.srcOvf = false →
              (s.cfg.pbDepth < s.pbSize → exec .start s = .next (s.raise .configRange 4)) ∧
              (s.pbSize ≤ s.cfg.pbDepth → s.cfg.pixDepth < s.npix →
                exec .start s = .next (s.raise .configRange 5)))))))

/-- R119: START with all tests passed sets PHASE to BUSY, re-initialises the working registers, changes nothing else,
and the sequencer is at UNPACK. -/
def Obligations.AcceptedStartLaunchesTheDecode : Prop :=
  ∀ s : State, s.phase = .idle → s.hdrValid = true → s.comp = 0 ∨ s.comp = 1 → s.nplanes.toNat ≤ s.cfg.maxPlanes →
    s.palOvf = false → s.srcOvf = false → s.pbSize ≤ s.cfg.pbDepth → s.npix ≤ s.cfg.pixDepth →
    exec .start s =
      .next { s with phase := .busy, srcPc := 0, pbFill := 0, wpalCount := 0, prev := ⟨0, 0, 0, 255⟩, stage := .unpack }

/-- R120, R40: REG_READ returns the register of its number and changes nothing else, except that in BUSY the registers
9, 11, 12 are open; a number above 12 returns 0 and sets CMD_ERR. -/
def Obligations.RegReadReturnsTheRegister : Prop :=
  ∀ s : State,
    (∀ p ∈ [(0, s.width.toNat), (1, s.height.toNat), (2, s.nplanes.toNat), (3, s.comp.toNat), (4, s.mode.toNat),
        (5, s.status.toNat), (6, s.err.toNat), (7, s.errInfo.toNat), (8, s.palCount), (9, s.wpalCount),
        (10, s.srcLen), (11, s.srcPc), (12, s.pbFill)],
      s.phase ≠ .busy ∨ (p.1 ≠ 9 ∧ p.1 ≠ 11 ∧ p.1 ≠ 12) →
      exec (.regRead p.1) s = .next { s with reply := some (.reg p.2) }) ∧
    (∀ no > 12, exec (.regRead no) s = .next { s with reply := some (.reg 0), cmdErr := true })

/-- R40 (93_implementation_defined.md U9): in BUSY a read of WPAL_COUNT, SRC_PC or PB_FILL returns some value of the
register's range and changes nothing of the block. The value is free (log entry 11): nothing more is said of it. -/
def Obligations.OpenRegistersReadInRangeWhileBusy : Prop :=
  ∀ s : State, s.phase = .busy →
    ∀ p ∈ [(9, s.cfg.palDepth), (11, s.srcLen), (12, s.pbSize)],
      ∃ v ≤ p.2, exec (.regRead p.1) s =
        .next { s with reply := some (.reg v), freeCount := s.freeCount + 1 }

/-- R121: FB_READ in DONE below NPIX returns the element; anywhere else it returns (0,0,0,0) and sets CMD_ERR. -/
def Obligations.FbReadReturnsThePixelOrRefuses : Prop :=
  ∀ (s : State) (k : Nat),
    (∀ px, s.phase = .done → k < s.npix → memRead s.fb k = some px →
      exec (.fbRead k) s = .next { s with reply := some (.pixel px) }) ∧
    (s.phase ≠ .done ∨ s.npix ≤ k →
      exec (.fbRead k) s = .next { s with reply := some (.pixel ⟨0, 0, 0, 0⟩), cmdErr := true })

/-- R23: the places of STATUS's fields, bits 7:6 read as 0. -/
def Obligations.StatusFieldsStandWhereTheRuleSays : Prop :=
  ∀ s : State,
    s.status.extractLsb' 0 2 =
      (match s.phase with | .idle => 0#2 | .busy => 1#2 | .done => 2#2 | .fault => 3#2) ∧
    s.status.getLsbD 2 = s.hdrValid ∧ s.status.getLsbD 3 = s.palOvf ∧ s.status.getLsbD 4 = s.srcOvf ∧
    s.status.getLsbD 5 = s.cmdErr ∧ s.status.getLsbD 6 = false ∧ s.status.getLsbD 7 = false

/-! ### Faults -/

/-- R230 (with the codes of R220): taking a fault writes ERR, ERR_INFO and PHASE and leaves everything else, and no unit
runs after it. -/
def Obligations.RaiseRecordsTheFaultAndNothingElse : Prop :=
  ∀ (s : State) (info : Nat),
    ∀ p ∈ [(Cause.missingDependency, 1#8), (.unsupportedCompression, 2#8), (.reservedOpcode, 3#8),
        (.malformedChunk, 4#8), (.planeUnderrun, 5#8), (.paletteRange, 6#8), (.configRange, 7#8)],
      s.raise p.1 info = { s with err := p.2, errInfo := BitVec.ofNat 32 info, phase := .fault } ∧
        (s.due = none → step (s.raise p.1 info) = .next (s.tick.raise p.1 info))

/-- R136: a reserved control byte, fetched by the loop, faults ReservedOpcode with the index of the byte; SRC_PC points
past it. RSVD as an instruction is that fault. -/
def Obligations.ReservedByteFaultsAtItsIndex : Prop :=
  (∀ s : State, exec .rsvd s = .next (s.raise .reservedOpcode (s.srcPc - 1))) ∧
  ∀ s : State, s.runs [.rle] → s.pbFill < s.pbSize → s.srcPc < s.srcLen → memRead s.src s.srcPc = some 0x80 →
    step s = .next ({ s.tick with srcPc := s.srcPc + 1 }.raise .reservedOpcode s.srcPc)

/-- R223: a COMP value that selects no operation faults UnsupportedCompression with that value: the selection as an
instruction, and START's second test, which executes it. -/
def Obligations.UnsupportedCompressionFaults : Prop :=
  (∀ (s : State) (v : Byte), exec (.unpackUnsupported v) s = .next (s.raise .unsupportedCompression v.toNat)) ∧
  ∀ s : State, s.phase = .idle → s.hdrValid = true → s.comp ≠ 0 → s.comp ≠ 1 →
    exec .start s = .next (s.raise .unsupportedCompression s.comp.toNat)

/-! ### UNPACK -/

/-- R132 and R170, R179 (the entries): UNPACK.RLE enters its loop; COMP.DIRECT enters the pixel loop at pixel 0;
COMP.HAM does too, after the width guard, which faults ConfigRange(7) above 8. Derived: that the entry is a step of its
own is the model's granularity (log entry 2). -/
def Obligations.LoopUnitsEnterTheirLoops : Prop :=
  ∀ s : State,
    exec .unpackRle s = .next { s with stage := .rle } ∧
    exec .compDirect s = .next { s with pix := 0, stage := .pixels } ∧
    (s.wpalBits ≤ 8 → exec .compHam s = .next { s with pix := 0, stage := .pixels }) ∧
    (8 < s.wpalBits → exec .compHam s = .next (s.raise .configRange 7))

/-- R134: LIT copies byte after byte until the run is complete, the output is full (a normal stop, tested first) or the
span has ended (MalformedChunk with SRC_PC); `m` is how many bytes that is. Nothing but PB, PB_FILL and SRC_PC changes,
and of PB only the `m` bytes. -/
def Obligations.LitCopiesTheRunOrIsCut : Prop :=
  ∀ (s : State) (n : BitVec 7) (m : Nat), m = min (n.toNat + 1) (min (s.pbSize - s.pbFill) (s.srcLen - s.srcPc)) →
    (∀ j < m, (memRead s.src (s.srcPc + j)).isSome) →
    ∃ pb',
      (∀ a, memRead pb' a =
        if s.pbFill ≤ a ∧ a < s.pbFill + m then memRead s.src (s.srcPc + (a - s.pbFill)) else memRead s.pb a) ∧
      (m = n.toNat + 1 ∨ s.pbSize ≤ s.pbFill + m →
        exec (.lit n) s = .next { s with pb := pb', pbFill := s.pbFill + m, srcPc := s.srcPc + m }) ∧
      (m < n.toNat + 1 → s.pbFill + m < s.pbSize →
        exec (.lit n) s =
          .next ({ s with pb := pb', pbFill := s.pbFill + m, srcPc := s.srcPc + m }.raise .malformedChunk
            (s.srcPc + m)))

/-- R135: REP reads its data byte, or faults MalformedChunk where the span has ended, and writes it `257 - c` times or
until the output is full. Nothing but PB, PB_FILL and SRC_PC changes, and of PB only the bytes written. -/
def Obligations.RepWritesTheRunOrIsCut : Prop :=
  ∀ (s : State) (n : BitVec 7),
    (s.srcLen ≤ s.srcPc → exec (.rep n) s = .next (s.raise .malformedChunk s.srcPc)) ∧
    ∀ (d : Byte) (m : Nat), s.srcPc < s.srcLen → memRead s.src s.srcPc = some d →
      m = min (257 - (128 + n.toNat)) (s.pbSize - s.pbFill) →
      ∃ pb',
        (∀ a, memRead pb' a = if s.pbFill ≤ a ∧ a < s.pbFill + m then some d else memRead s.pb a) ∧
        exec (.rep n) s = .next { s with pb := pb', pbFill := s.pbFill + m, srcPc := s.srcPc + 1 }

/-- R137: UNPACK.RAW copies `min(SRC_LEN, PB_SIZE)` bytes to the same indices and leaves the rest of PB; PB_FILL and
SRC_PC are that number. That the sequencer then is at DEINT is R119. -/
def Obligations.RawCopiesTheSpan : Prop :=
  ∀ (s : State) (n : Nat), n = min s.srcLen s.pbSize → memFilled s.src n = true →
    ∃ pb',
      (∀ a, memRead pb' a = if a < n then memRead s.src a else memRead s.pb a) ∧
      exec .unpackRaw s = .next { s with pb := pb', pbFill := n, srcPc := n, stage := .deint }

/-- R132, R133, R134, R135 over a whole stream, with R82, R95: the loop of UNPACK.RLE, given the bytes an RLE program
of LIT and REP lines assembles to and a plane buffer of the size they unpack to, leaves PB, PB_FILL and SRC_PC as the
lines say and is at DEINT. Derived from those rules. The NUMBER OF STEPS, one an instruction and one for the normal stop,
is no rule of the spec but the model's granularity (log entries 2 and 3). -/
def Obligations.AssembledProgramUnpacksToItsOutput : Prop :=
  ∀ (ls : List AsmLine) (bs out : List Byte) (s : State),
    assemble ls = some bs → programOutput ls = some out →
    s.phase = .busy → s.stage = .rle → s.inbox = [] → s.srcPc = 0 → s.pbFill = 0 →
    s.srcLen = bs.length → s.pbSize = out.length → (∀ a < bs.length, memRead s.src a = bs[a]?) →
    ∃ t, runSteps (ls.length + 1) s = .next t ∧ t.phase = .busy ∧ t.stage = .deint ∧ t.srcPc = bs.length ∧
      t.pbFill = out.length ∧ ∀ a < out.length, memRead t.pb a = out[a]?

/-! ### DEINT -/

/-- R151: where every needed byte was written, or reads as 0 by the policy, bit `p` of the code at column `x`, row `y`
is the bit of plane `p`'s row `y` at byte `x >> 3`, position `7 - (x mod 8)`; bits NPLANES to 7 are 0. Nothing but CB
changes, and of CB nothing beyond the image. -/
def Obligations.DeintComputesThePixelCodes : Prop :=
  ∀ s : State, memFilled s.pb s.pbFill = true → s.cfg.shortBody = .zero ∨ s.bodyLongEnough →
    ∃ cb',
      exec .deint s = .next { s with cb := cb', stage := .fix } ∧
      (∀ y < s.height.toNat, ∀ x < s.width.toNat,
        ∃ c, memRead cb' (y * s.width.toNat + x) = some c ∧
          ∀ p < 8, c.getLsbD p =
            (decide (p < s.nplanes.toNat) && (s.planeByte (s.pbOff y p (x / 8))).getLsbD (7 - x % 8))) ∧
      ∀ a, s.npix ≤ a → memRead cb' a = memRead s.cb a

/-- R153 with R229: under the policy `fault`, DEINT faults PlaneUnderrun at the first needed byte in index order that
UNPACK did not write, with its index; nothing but CB, ERR, ERR_INFO and PHASE changes, and of CB nothing beyond the image.
Derived: that the reads ascend is the spec's inference (R152). -/
def Obligations.DeintFaultsAtTheFirstMissingByte : Prop :=
  ∀ (s : State) (y p i : Nat), memFilled s.pb s.pbFill = true → s.cfg.shortBody = .fault → s.needs y p i →
    s.pbFill ≤ s.pbOff y p i →
    (∀ y' p' i', s.needs y' p' i' → s.pbOff y' p' i' < s.pbOff y p i → s.pbOff y' p' i' < s.pbFill) →
    ∃ cb', exec .deint s = .next ({ s with cb := cb' }.raise .planeUnderrun (s.pbOff y p i)) ∧
      ∀ a, s.npix ≤ a → memRead cb' a = memRead s.cb a

/-- R153 (the spec's inference): a body is long enough exactly when the image is empty, has no planes, or lacks nothing
but row-pad bytes at its very end. -/
def Obligations.BodyLongEnoughIffAllButTheLastPad : Prop :=
  ∀ s : State, s.bodyLongEnough ↔
    s.height = 0 ∨ s.nplanes = 0 ∨ s.width = 0 ∨ s.pbSize - (s.pitch - s.rowBytes) ≤ s.pbFill

/-- R68 (the spec's inference): PBOFF is strictly increasing in (y, p, i) and runs over 0 to PB_SIZE - 1 without gap. -/
def Obligations.PlaneOffsetsAreOrderedAndDense : Prop :=
  ∀ s : State,
    (∀ y p i y' p' i', p < s.nplanes.toNat → i < s.pitch → p' < s.nplanes.toNat → i' < s.pitch →
      y < y' ∨ (y = y' ∧ (p < p' ∨ (p = p' ∧ i < i'))) → s.pbOff y p i < s.pbOff y' p' i') ∧
    ∀ a, a < s.pbSize ↔
      ∃ y p i, y < s.height.toNat ∧ p < s.nplanes.toNat ∧ i < s.pitch ∧ a = s.pbOff y p i

/-- R24: the four derived values; PITCH is even and at least ROWBYTES, by at most one, and its columns cover the row with
at most 15 over. -/
def Obligations.PitchIsEvenAndCoversTheRow : Prop :=
  ∀ s : State, s.pitch = (s.width.toNat + 15) / 16 * 2 ∧ s.rowBytes = (s.width.toNat + 7) / 8 ∧
    s.pbSize = s.pitch * s.height.toNat * s.nplanes.toNat ∧ s.npix = s.width.toNat * s.height.toNat ∧
    s.pitch % 2 = 0 ∧ s.rowBytes ≤ s.pitch ∧ s.pitch ≤ s.rowBytes + 1 ∧ s.width.toNat ≤ s.pitch * 8 ∧
    s.pitch * 8 ≤ s.width.toNat + 15 ∧ s.pitch ≤ 8192

/-! ### FIX -/

/-- R160, R163: FIX.PASS copies the loaded palette and its count to WPAL and changes nothing else. -/
def Obligations.FixPassCopiesThePalette : Prop :=
  ∀ s : State, ∃ wpal',
    exec .fixPass s = .next { s with wpal := wpal', wpalCount := s.palCount, stage := .comp } ∧
    ∀ k, regRead wpal' k = if k < s.palCount then regRead s.pal k else regRead s.wpal k

/-- R160, R161: FIX.EHB doubles a palette of at most 32 entries with half-bright opaque copies of the originals, and
leaves a larger one as it is; nothing but WPAL and WPAL_COUNT changes. -/
def Obligations.FixEhbDoublesSmallPalettes : Prop :=
  ∀ s : State, ∃ wpal',
    (s.palCount ≤ 32 →
      exec .fixEhb s = .next { s with wpal := wpal', wpalCount := 2 * s.palCount, stage := .comp } ∧
      ∀ k, regRead wpal' k =
        if k < s.palCount then regRead s.pal k
        else if k < 2 * s.palCount then
          ⟨(regRead s.pal (k - s.palCount)).r >>> 1, (regRead s.pal (k - s.palCount)).g >>> 1,
            (regRead s.pal (k - s.palCount)).b >>> 1, 255⟩
        else regRead s.wpal k) ∧
    (32 < s.palCount →
      exec .fixEhb s = .next { s with wpal := wpal', wpalCount := s.palCount, stage := .comp } ∧
      ∀ k, regRead wpal' k = if k < s.palCount then regRead s.pal k else regRead s.wpal k)

/-- R160, R162: FIX.HAMCULL keeps the first `n >> s` entries when the palette's width is above NPLANES, faults
ConfigRange(6) when the shift `s` is negative, and keeps all entries otherwise. The shift is the parameter
HAM_CULL_SHIFT, whose default reading is `2*np - b - 2` (the other readings: spec/92_eei_decisions.md D15; it may be any
other function too, log entry 5). -/
def Obligations.FixHamcullKeepsTheFirstEntries : Prop :=
  (∀ b np : Nat, cullShift .readingA b np = 2 * (np : Int) - b - 2 ∧ cullShift .readingB b np = 2 * (np : Int) - b + 2 ∧
    cullShift .readingC b np = (np : Int) - 2 ∧ cullShift .readingD b np = (b : Int) - np + 2) ∧
  ∀ (s : State) (b : Nat) (shift : Int), b = abits s.cfg.abitsFn s.palCount →
    shift = cullShift s.cfg.hamCullShift b s.nplanes.toNat →
    ∃ wpal',
      (∀ k, regRead wpal' k = if k < s.palCount then regRead s.pal k else regRead s.wpal k) ∧
      (b ≤ s.nplanes.toNat →
        exec .fixHamcull s = .next { s with wpal := wpal', wpalCount := s.palCount, stage := .comp }) ∧
      (s.nplanes.toNat < b → 0 ≤ shift →
        exec .fixHamcull s =
          .next { s with wpal := wpal', wpalCount := s.palCount >>> shift.toNat, stage := .comp }) ∧
      (s.nplanes.toNat < b → shift < 0 →
        exec .fixHamcull s = .next ({ s with wpal := wpal', wpalCount := s.palCount }.raise .configRange 6))

/-- R25: with the default ABITS_FN the address width of `n` entries is the smallest b with `2^b >= n`; with the legacy
form (90_conflicts.md C2) the smallest with `2^b > n`. -/
def Obligations.AbitsIsTheSmallestWidth : Prop :=
  ∀ n : Nat,
    (n ≤ 2 ^ abits .below n ∧ ∀ b, n ≤ 2 ^ b → abits .below n ≤ b) ∧
    (n < 2 ^ abits .belowOrEqual n ∧ ∀ b, n < 2 ^ b → abits .belowOrEqual n ≤ b)

/-! ### COMP -/

/-- R171: IDX writes the palette entry to the pixel's place in FB and touches neither PREV nor any other element; a code
at or above WPAL_COUNT faults PaletteRange with the pixel's index. R119, R180: direct mode starts at pixel 0, runs the
codes of CB pixel after pixel, and is DONE after the last, at once for an image without pixels. Derived: that COMP.DIRECT's
entry and the arrival at DONE are steps of their own is the model's granularity (log entries 2 and 3). -/
def Obligations.IdxLooksUpOrFaults : Prop :=
  ∀ (s : State) (c : Byte),
    (c.toNat < s.wpalCount →
      ∃ fb', exec (.idx c) s = .next { s with fb := fb', pix := s.pix + 1 } ∧
        ∀ k, memRead fb' k = if k = s.pix then some (regRead s.wpal c.toNat) else memRead s.fb k) ∧
    (s.wpalCount ≤ c.toNat → exec (.idx c) s = .next (s.raise .paletteRange s.pix)) ∧
    exec .compDirect s = .next { s with pix := 0, stage := .pixels } ∧
    (s.runs [.pixels] → s.ham = false →
      (s.pix < s.npix → memRead s.cb s.pix = some c → step s = exec (.idx c) s.tick) ∧
      (s.npix ≤ s.pix → step s = .next { s.tick with phase := .done }))

/-- R174, R172: HAM.SET emits the palette entry, which becomes PREV; no other element of FB changes. -/
def Obligations.HamSetEmitsTheEntry : Prop :=
  ∀ (s : State) (c : Byte), ∃ fb',
    exec (.hamSet c) s = .next { s with fb := fb', pix := s.pix + 1, prev := regRead s.wpal c.toNat } ∧
    ∀ k, memRead fb' k = if k = s.pix then some (regRead s.wpal c.toNat) else memRead s.fb k

/-- R175 to R178, R87: a modify code replaces exactly one channel of PREV by VAL shifted up to fill 8 bits: blue,
red, or (in both encodings) green; the result is the pixel and the new PREV, alpha as it was. -/
def Obligations.ModifyCodesReplaceOneChannel : Prop :=
  ∀ (s : State) (b : Nat) (val v : Byte) (three : Bool), b ≤ 8 → v.toNat = val.toNat * 2 ^ (8 - b) % 256 →
    ∀ p ∈ [(Instr.hamModB b val, (⟨s.prev.r, s.prev.g, v, s.prev.a⟩ : Rgba)),
        (.hamModR b val, ⟨v, s.prev.g, s.prev.b, s.prev.a⟩),
        (.hamModG b three val, ⟨s.prev.r, v, s.prev.b, s.prev.a⟩)],
      ∃ fb', exec p.1 s = .next { s with fb := fb', pix := s.pix + 1, prev := p.2 } ∧
        ∀ k, memRead fb' k = if k = s.pix then some p.2 else memRead s.fb k

/-- R87, R182 (the latter the spec's inference): V8 of a value that fits in `b` bits is `VAL * 2^(8-b)`, at most
`256 - 2^(8-b)`, its low `8 - b` bits 0. -/
def Obligations.ComponentValueFillsFromTheTop : Prop :=
  ∀ (b : Nat) (val : Byte), b ≤ 8 → val.toNat < 2 ^ b →
    (v8 b val).toNat = val.toNat * 2 ^ (8 - b) ∧ (v8 b val).toNat ≤ 256 - 2 ^ (8 - b) ∧
      (v8 b val).toNat % 2 ^ (8 - b) = 0

/-- R181 (the spec's inference): every pixel the host can read of a completed decode is opaque. -/
def Obligations.ReadPixelsAreOpaque : Prop :=
  ∀ (s : State) (k : Nat), StateInv s → s.phase = .done → k < s.npix →
    ∃ px : Rgba, exec (.fbRead k) s = .next { s with reply := some (.pixel px) } ∧ px.a = 255

/-! ### A step runs the decoded instruction -/

/-- R133: while the loop's test (R132) holds, a step fetches the control byte, moves SRC_PC past it and runs the decoded
instruction: RSVD for 0x80, LIT with COUNT `c + 1` below it, REP with COUNT `257 - c` above it. -/
def Obligations.StepRunsTheFetchedRleInstruction : Prop :=
  ∀ (s : State) (c : Byte), s.runs [.rle] → s.pbFill < s.pbSize → s.srcPc < s.srcLen →
    memRead s.src s.srcPc = some c →
    step s = exec (decodeRle c) { s.tick with srcPc := s.srcPc + 1 } ∧
      (c.toNat = 128 → decodeRle c = .rsvd) ∧
      (c.toNat < 128 → ∃ n, decodeRle c = .lit n ∧ litCount n = c.toNat + 1) ∧
      (128 < c.toNat → ∃ n, decodeRle c = .rep n ∧ repCount n = 257 - c.toNat)

/-- R171, R172: a step of the pixel loop reads the pixel's code and runs what it decodes to in the mode; in HAM mode
PREV is ROW_START at the first pixel of every row. -/
def Obligations.StepRunsThePixelCode : Prop :=
  ∀ (s : State) (c : Byte) (i : Instr), s.runs [.pixels] → s.pix < s.npix → memRead s.cb s.pix = some c →
    decode (if s.ham then .pixelHam s.wpalCount s.wpalBits else .pixelDirect) (.byte c) = .ok i →
    step s = exec i (if s.ham = true ∧ s.pix % s.width.toNat = 0 then { s.tick with prev := ⟨0, 0, 0, 255⟩ } else s.tick)

/-- R119, R131, R160, R170: at the other units a step runs the operation that COMP or MODE selects, or DEINT. -/
def Obligations.StepRunsTheSelectedUnit : Prop :=
  ∀ s : State, s.phase = .busy → s.due = none →
    (s.stage = .unpack → step s = exec (decodeCompSel s.comp) s.tick) ∧
    (s.stage = .deint → step s = exec .deint s.tick) ∧
    (s.stage = .fix → step s = exec (decodeFixSel s.mode) s.tick) ∧
    (s.stage = .comp → step s = exec (decodeCompositorSel s.mode) s.tick)

/-- R110: a host command that arrives runs as one step, in every phase. -/
def Obligations.StepRunsTheArrivedCommand : Prop :=
  ∀ (s : State) (cmd : Instr) (rest : List Arrival), s.inbox = ⟨0, cmd⟩ :: rest → cmd.isHostCommand = true →
    step s = exec cmd { s with inbox := rest }

/-- R138, R180, R240: when the loop's test fails UNPACK.RLE stops normally and DEINT is next; when the last pixel is
written PHASE becomes DONE; in IDLE, DONE and FAULT the block waits. That the two arrivals are steps of their own is the
model's granularity (log entry 3). -/
def Obligations.SequencerEndsUnitsAndWaits : Prop :=
  ∀ s : State, s.due = none →
    (s.phase = .busy → s.stage = .rle → s.pbSize ≤ s.pbFill ∨ s.srcLen ≤ s.srcPc →
      step s = .next { s.tick with stage := .deint }) ∧
    (s.phase = .busy → s.stage = .pixels → s.npix ≤ s.pix → step s = .next { s.tick with phase := .done }) ∧
    (s.phase ≠ .busy → step s = .next s.tick)

/-! ### Encodings -/

/-- R81, R84, R86, R88, R89, R90: words written out from the spec's encodings decode to what they stand for. -/
def Obligations.DecoderReadsTheSpecsWords : Prop :=
  decodeRle 0b00000010 = .lit 2 ∧ decodeRle 0b11111110 = .rep 126 ∧ decodeRle 0b10000000 = .rsvd ∧
    decodeHam 16 4 0b00011111 = .ok (.hamModB 4 15) ∧ decodeHam 16 4 0b00101010 = .ok (.hamModR 4 10) ∧
    decodeHam 16 4 0b00110101 = .ok (.hamModG 4 true 5) ∧ decodeHam 5 3 0b00000110 = .ok (.hamModG 3 false 6) ∧
    decodeHam 16 4 0b00000011 = .ok (.hamSet 3) ∧ decodeCompSel 2 = .unpackUnsupported 2 ∧
    decodeFixSel 0x00000880 = .fixEhb ∧ decodeFixSel 0x00000800 = .fixHamcull ∧
    decodeCompositorSel 0x00000880 = .compHam

/-- Decode and encode agree (R81, R82, R84, R86, R88, R89, R90): in every space, every well-formed instruction of it
has a pattern, and the pattern decodes to it with every operand. -/
def Obligations.DecodeOfEncodeIsTheInstruction : Prop :=
  ∀ (sp : Space) (i : Instr), i.wellFormed = true → i.inSpace sp = true →
    ∃ raw, encode i = some raw ∧ decode sp raw = .ok i

/-- The other direction: what the decoder answers is well-formed, and in the spaces where a byte has no ignored bits
(the RLE stream, direct pixel codes, COMP) its pattern is the byte it was read from. -/
def Obligations.DecodedInstructionsAreWellFormed : Prop :=
  (∀ (sp : Space) (raw : Raw) (i : Instr), decode sp raw = .ok i → i.wellFormed = true) ∧
    ∀ (sp : Space) (c : Byte) (i : Instr), sp = .rle ∨ sp = .pixelDirect ∨ sp = .compSel →
      decode sp (.byte c) = .ok i → encode i = some (.byte c)

/-- R86, R22, R89: ignored bits have no effect. Bits of a modify code above its control field, and the bits of MODE
other than 11 and 7, change nothing of what is decoded. -/
def Obligations.IgnoredBitsDoNotDecode : Prop :=
  (∀ (b : Nat) (c c' : Byte), c.toNat % 2 ^ (b + 2) = c'.toNat % 2 ^ (b + 2) → decodeModify b c = decodeModify b c') ∧
    ∀ m m' : U32, m.getLsbD 11 = m'.getLsbD 11 → m.getLsbD 7 = m'.getLsbD 7 →
      decodeFixSel m = decodeFixSel m' ∧ decodeCompositorSel m = decodeCompositorSel m'

/-- R95, R82: the control byte a LIT or REP line assembles to decodes to the run of that length. -/
def Obligations.AssembledRunsDecodeToTheirLength : Prop :=
  (∀ (data : List Byte) (bs : List Byte), (AsmLine.lit data).assemble = some bs →
    ∃ n : BitVec 7, litCount n = data.length ∧ ∃ c, bs = c :: data ∧ decodeRle c = .lit n) ∧
  (∀ (count : Nat) (d : Byte) (bs : List Byte), (AsmLine.rep count d).assemble = some bs →
    ∃ n : BitVec 7, n ≠ 0 ∧ repCount n = count ∧ ∃ c, bs = [c, d] ∧ decodeRle c = .rep n)

/-- Log entries 1, 5 and 7 (the model's stops): a read of an element that nothing has written stops by name, in a unit
and in FB_READ; a term that is no host command is refused by name; and so is, and only, a modify code met at an address
width above 8, which R179 turns away before the first pixel. R74 says that no rule of the block does the first; see
StepNeverStopsInGoodStates for all three. -/
def Obligations.StopsAreNamed : Prop :=
  ∀ s : State,
    (s.runs [.rle] → s.pbFill < s.pbSize → s.srcPc < s.srcLen → memRead s.src s.srcPc = none →
      step s = .fault (.unwritten .src s.srcPc)) ∧
    (∀ n, s.srcPc < s.srcLen → memRead s.src s.srcPc = none → exec (.rep n) s = .fault (.unwritten .src s.srcPc)) ∧
    (∀ n, s.pbFill < s.pbSize → s.srcPc < s.srcLen → memRead s.src s.srcPc = none →
      exec (.lit n) s = .fault (.unwritten .src s.srcPc)) ∧
    (0 < s.srcLen → 0 < s.pbSize → memRead s.src 0 = none → exec .unpackRaw s = .fault (.unwritten .src 0)) ∧
    (s.runs [.pixels] → s.pix < s.npix → memRead s.cb s.pix = none → step s = .fault (.unwritten .cb s.pix)) ∧
    (∀ k, s.phase = .done → k < s.npix → memRead s.fb k = none →
      exec (.fbRead k) s = .fault (.unwritten .fb k)) ∧
    (∀ cmd rest, s.inbox = ⟨0, cmd⟩ :: rest → cmd.isHostCommand = false → step s = .refused .notAHostCommand) ∧
    (∀ c, s.runs [.pixels] → s.pix < s.npix → memRead s.cb s.pix = some c → s.ham = true → s.wpalCount ≤ c.toNat →
      8 < s.wpalBits → step s = .refused (.undecodable .widthAbove8)) ∧
    (∀ why, step s = .refused (.undecodable why) → why = .widthAbove8 ∧ s.runs [.pixels] ∧ s.ham = true ∧ 8 < s.wpalBits)

/-! ### Rules of the whole machine -/

/-- R36: the only transitions of PHASE are to IDLE by RESET, IDLE to BUSY by START, BUSY to DONE when COMP finishes,
and IDLE or BUSY to FAULT. -/
def Obligations.PhaseChangesOnlyAsTheRuleSays : Prop :=
  ∀ s t : State, step s = .next t →
    t.phase = s.phase ∨ (t.phase = .idle ∧ s.due = some .reset) ∨
      (s.phase = .idle ∧ t.phase = .busy ∧ s.due = some .start) ∨
      (t.phase = .done ∧ s.runs [.pixels] ∧ s.npix ≤ s.pix) ∨
      (t.phase = .fault ∧ (s.runs [.unpack, .rle, .deint, .fix, .comp, .pixels] ∨
        (s.phase = .idle ∧ s.due = some .start)))

/-- R72, R21, R26, R32: outside IDLE nothing but RESET changes an input of the decode (the header, MODE, PAL, SRC, their
counts and flags); in IDLE a step without a command does not either; the parameters never change. -/
def Obligations.InputsChangeOnlyByCommandsInIdle : Prop :=
  ∀ s t : State, step s = .next t → t.cfg = s.cfg ∧
    (s.due ≠ some .reset → s.phase ≠ .idle ∨ s.due = none →
      t.width = s.width ∧ t.height = s.height ∧ t.nplanes = s.nplanes ∧ t.comp = s.comp ∧ t.mode = s.mode ∧
      t.hdrValid = s.hdrValid ∧ t.palOvf = s.palOvf ∧ t.srcOvf = s.srcOvf ∧ t.pal = s.pal ∧
      t.palCount = s.palCount ∧ t.src = s.src ∧ t.srcLen = s.srcLen)

/-- R60, R27, R28, R33, R34, R35: each buffer has one writer. Unless RESET arrives, PB is written only by UNPACK, CB
only by DEINT, WPAL only by FIX, FB only by COMP; PREV only by COMP and START. -/
def Obligations.BuffersHaveOneWriter : Prop :=
  ∀ s t : State, step s = .next t → s.due ≠ some .reset →
    (¬ s.runs [.unpack, .rle] → t.pb = s.pb) ∧ (¬ s.runs [.deint] → t.cb = s.cb) ∧
    (¬ s.runs [.fix] → t.wpal = s.wpal) ∧ (¬ s.runs [.pixels] → t.fb = s.fb) ∧
    (¬ s.runs [.pixels] → s.due ≠ some .start → t.prev = s.prev) ∧
    (s.ham = false → s.due ≠ some .start → t.prev = s.prev)

/-- R23, R122, R258: the flags are sticky: CMD_ERR and HDR_VALID until RESET, PAL_OVF until PAL_CLEAR in IDLE or RESET,
SRC_OVF until SRC_CLEAR in IDLE or RESET. -/
def Obligations.FlagsStickUntilTheirClear : Prop :=
  ∀ s t : State, step s = .next t → s.due ≠ some .reset →
    (s.cmdErr = true → t.cmdErr = true) ∧ (s.hdrValid = true → t.hdrValid = true) ∧
    (s.palOvf = true → ¬ (s.phase = .idle ∧ s.due = some .palClear) → t.palOvf = true) ∧
    (s.srcOvf = true → ¬ (s.phase = .idle ∧ s.due = some .srcClear) → t.srcOvf = true)

/-- R232, R29, R257: FAULT and DONE are left only by RESET; until then ERR, ERR_INFO, the diagnostic registers and FB
stay as they are. -/
def Obligations.EndedDecodesHoldUntilReset : Prop :=
  ∀ s t : State, step s = .next t → Finished s → s.due ≠ some .reset →
    t.phase = s.phase ∧ t.err = s.err ∧ t.errInfo = s.errInfo ∧ t.srcPc = s.srcPc ∧ t.pbFill = s.pbFill ∧
      t.wpalCount = s.wpalCount ∧ t.fb = s.fb

/-! ### Headline results -/

/-- Every step keeps the invariant of Safety.lean: canonical memories, counters in range, every defined palette entry
and pixel opaque, FAULT exactly when ERR is not 0, START's conditions while a decode runs, CB and FB written as far as
the unit says. Derived from R26 to R36, R74, R118, R181. -/
def Obligations.EveryStepKeepsTheInvariant : Prop :=
  ∀ s t : State, StateInv s → step s = .next t → StateInv t

/-- R74: no rule reads an index that is not in use. In a state that meets the invariant every step answers a next
state: no unit, and no FB_READ, meets a memory element that nothing has written. -/
def Obligations.StepNeverStopsInGoodStates : Prop :=
  ∀ s : State, StateInv s → ∃ t, step s = .next t

/-- R261, R140: a running decode that the host leaves alone reaches DONE or FAULT, within a number of steps bounded by
the span and the image. -/
def Obligations.DecodeEndsInDoneOrFault : Prop :=
  ∀ s : State, StateInv s → s.phase = .busy → s.inbox = [] →
    ∃ n ≤ s.srcLen + s.npix + 6, ∃ t, runSteps n s = .next t ∧ Finished t

/-- R124: the image is a function of the inputs alone. Two idle blocks that hold the same inputs, whatever else they
hold, are after every number of steps from START in the same phase with the same ERR, ERR_INFO and counts, and when they
are DONE their images are equal. -/
def Obligations.ImageDependsOnTheInputsAlone : Prop :=
  ∀ (s t s' : State) (n : Nat), StateInv s → StateInv t → s.phase = .idle → t.phase = .idle → SameInputs s t →
    runSteps n s.started = .next s' →
    ∃ t', runSteps n t.started = .next t' ∧ t'.phase = s'.phase ∧ t'.err = s'.err ∧ t'.errInfo = s'.errInfo ∧
      t'.srcPc = s'.srcPc ∧ t'.pbFill = s'.pbFill ∧ t'.wpalCount = s'.wpalCount ∧
      (s'.phase = .done → t'.width = s'.width ∧ t'.height = s'.height ∧
        ∀ k < s'.npix, memRead t'.fb k = memRead s'.fb k)

/-- R94, R210 (the host's side): from any file, whatever its MAGIC and FORMAT_TAGS, the host issues only host commands,
and START at most once. -/
def Obligations.HostIssuesCommandsAndStartsAtMostOnce : Prop :=
  ∀ (p : HostParams) (file : List Byte), (hostDecode p file).commands.all Instr.isHostCommand = true ∧
    (hostDecode p file).commands.count .start ≤ 1

/-- R205, R208, R209, R211 (the host's side): a session of the host on a block, from any good state, ends. If the file
has pixel data the block is then in DONE or FAULT: in FAULT the host has the ERR and ERR_INFO the block recorded and no
image; in DONE, unless the container had an anomaly, it has the block's WIDTH, HEIGHT and all its pixels. Without pixel
data it has no image. Derived: the driver's polling, what an anomaly after the pixel data does, and that the by-products
of the whole parsing go with an error too, are the model's (log entry 24). -/
def Obligations.HostHandsOnTheImageOrOneError : Prop :=
  ∀ (p : HostParams) (file : List Byte) (s : State), StateInv s →
    ∃ r t, runSession p file s = .next (r, t) ∧ StateInv t ∧ r.parsed = hostDecode p file ∧
      (r.error ≠ none → r.image = none) ∧
      ((hostDecode p file).bodySeen = false → r.image = none ∧ r.error = (hostDecode p file).containerError) ∧
      ((hostDecode p file).bodySeen = true → Finished t ∧
        (t.phase = .fault → r.error = some (.block t.err.toNat t.errInfo.toNat)) ∧
        (t.phase = .done → r.error = (hostDecode p file).containerError ∧
          (r.error = none → ∃ px, r.image = some ⟨t.width.toNat, t.height.toNat, px⟩ ∧ px.length = t.npix ∧
            ∀ k < t.npix, px[k]? = memRead t.fb k)))

/-- R212: the document's end-to-end check of the host protocol. From reset, the minimal container gives the command
sequence of spec/95_test_vectors.md S8, and a session on it ends in DONE with the image of two white and six black pixels
and no error. Derived: the magic, the format tag and COMP's number for None are general knowledge (log entries 13, 21). -/
def Obligations.ExampleContainerGivesTheDocumentsImage : Prop :=
  (hostDecode .default exampleContainer).commands =
      [.reset, .hdrLoad 8 1 1 0, .palClear, .palPush 0 0 0, .palPush 255 255 255, .srcClear, .srcPush 0xC0, .start] ∧
    ∃ r t, runSession .default exampleContainer State.reset = .next (r, t) ∧ t.phase = .done ∧ r.error = none ∧
      r.image = some ⟨8, 1, List.replicate 2 ⟨255, 255, 255, 255⟩ ++ List.replicate 6 ⟨0, 0, 0, 255⟩⟩
end

