-- ==== Sys2Proof/Laws/Assembler.lean ====
section
/-!
SUPPORT. When a run line of the assembler (spec/30_encoding.md R95) assembles, with the limits as numbers.
-/

namespace Sys2Proof

/-- A LIT line assembles exactly when it has 1 to 128 bytes. -/
theorem AsmLine.assemble_lit (data bs : List Byte) : (AsmLine.lit data).assemble = some bs ↔
    (1 ≤ data.length ∧ data.length ≤ 128) ∧ bs = BitVec.ofNat 8 (data.length - 1) :: data := by
  show (if _ then _ else _) = _ ↔ _
  split
  · rename_i h; exact ⟨fun e => ⟨h, (Option.some.inj e).symm⟩, fun e => congrArg some e.2.symm⟩
  · rename_i h; exact ⟨nofun, fun e => absurd e.1 h⟩

/-- A REP line assembles exactly when its count is 2 to 128. -/
theorem AsmLine.assemble_rep (count : Nat) (d : Byte) (bs : List Byte) : (AsmLine.rep count d).assemble = some bs ↔
    (2 ≤ count ∧ count ≤ 128) ∧ bs = [BitVec.ofNat 8 (257 - count), d] := by
  have hm : (count : Int) ≤ 1 - Const.rleRepMin ↔ count ≤ 128 := by unfold Const.rleRepMin; omega
  show (if _ then _ else _) = _ ↔ _
  split
  · rename_i h; exact ⟨fun e => ⟨⟨h.1, hm.mp h.2⟩, (Option.some.inj e).symm⟩, fun e => congrArg some e.2.symm⟩
  · rename_i h; exact ⟨nofun, fun e => absurd ⟨e.1.1, hm.mpr e.1.2⟩ h⟩

end Sys2Proof
end

