-- ==== Sys2Proof/Laws/Flow.lean ====
section
/-!
SUPPORT. What the shared control operations can do, said once: how a piece of pseudocode ends, sequencing, the two
loops, and the guarded reads.
-/

namespace Sys2Proof.Machine

/-- A flow ends in one of three ways, each with its own property. -/
def Flow.Ends (f : Flow) (goesOn raised : State → Prop) (stuck : Fault → Prop) : Prop :=
  match f with
  | .goesOn s => goesOn s
  | .raised s => raised s
  | .stuck r => stuck r

@[simp] theorem Flow.ends_goesOn (s : State) (g r : State → Prop) (k : Fault → Prop) :
    (Flow.goesOn s).Ends g r k ↔ g s := Iff.rfl

@[simp] theorem Flow.ends_raised (s : State) (g r : State → Prop) (k : Fault → Prop) :
    (Flow.raised s).Ends g r k ↔ r s := Iff.rfl

@[simp] theorem Flow.ends_stuck (f : Fault) (g r : State → Prop) (k : Fault → Prop) :
    (Flow.stuck f).Ends g r k ↔ k f := Iff.rfl

theorem Flow.Ends.imp {f : Flow} {g g' r r' : State → Prop} {k k' : Fault → Prop} (h : f.Ends g r k)
    (hg : ∀ s, g s → g' s) (hr : ∀ s, r s → r' s) (hk : ∀ e, k e → k' e) : f.Ends g' r' k' := by
  cases f <;> simp_all

/-- Sequencing: the first piece goes on to a state from which the second ends as wanted. -/
theorem Flow.Ends.andThen {f : Flow} {next : State → Flow} {g r : State → Prop} {k : Fault → Prop}
    (h : f.Ends (fun s => (next s).Ends g r k) r k) : (f.andThen next).Ends g r k := by
  cases f <;> exact h

@[simp] theorem Flow.andThen_goesOn (s : State) (k : State → Flow) : (Flow.goesOn s).andThen k = k s := rfl
@[simp] theorem Flow.andThen_raised (s : State) (k : State → Flow) : (Flow.raised s).andThen k = .raised s := rfl
@[simp] theorem Flow.andThen_stuck (r : Fault) (k : State → Flow) : (Flow.stuck r).andThen k = .stuck r := rfl
@[simp] theorem Flow.outcome_goesOn (s : State) : (Flow.goesOn s).outcome = .next s := rfl
@[simp] theorem Flow.outcome_raised (s : State) : (Flow.raised s).outcome = .next s := rfl
@[simp] theorem Flow.outcome_stuck (r : Fault) : (Flow.stuck r).outcome = .fault r := rfl

/-- The rule of a loop whose body may raise: an invariant indexed by the loop variable. -/
theorem forEach_ends {body : Nat → State → Flow} (inv : Nat → State → Prop) (r : State → Prop) (k : Fault → Prop)
    (count v0 : Nat) (s : State) (h0 : inv v0 s)
    (hbody : ∀ v t, v0 ≤ v → v < v0 + count → inv v t → (body v t).Ends (inv (v + 1)) r k) :
    (forEach body count v0 s).Ends (inv (v0 + count)) r k := by
  induction count generalizing v0 s with
  | zero => exact h0
  | succ n ih =>
    refine Flow.Ends.andThen ((hbody v0 s le_rfl (by omega) h0).imp (fun t ht => ?_) (fun _ h => h) (fun _ h => h))
    have := ih (v0 + 1) t ht (fun v u hv hv' => hbody v u (by omega) (by omega))
    rwa [show v0 + (n + 1) = v0 + 1 + n by omega]

/-- The rule of a loop over a plain update. -/
theorem forUpdate_inv {α : Type} {body : Nat → α → α} (inv : Nat → α → Prop) (count v0 : Nat) (x : α) (h0 : inv v0 x)
    (hbody : ∀ v y, v0 ≤ v → v < v0 + count → inv v y → inv (v + 1) (body v y)) :
    inv (v0 + count) (forUpdate body count v0 x) := by
  induction count generalizing v0 x with
  | zero => exact h0
  | succ n ih =>
    have := ih (v0 + 1) (body v0 x) (hbody v0 x le_rfl (by omega) h0) (fun v y hv hv' => hbody v y (by omega) (by omega))
    rwa [show v0 + (n + 1) = v0 + 1 + n by omega]

/-- A guarded read that finds its element goes on with it. -/
theorem readOrStuck_of_some {α : Type} {space : MemSpace} {m : List (Nat × α)} {a : Nat} {v : α} (k : α → Flow)
    (h : memRead m a = some v) : readOrStuck space m a k = k v := by
  simp [readOrStuck, h]

/-- All a guarded read can do. -/
theorem readOrStuck_cases {α : Type} (space : MemSpace) (m : List (Nat × α)) (a : Nat) (k : α → Flow) :
    (∃ v, memRead m a = some v ∧ readOrStuck space m a k = k v) ∨
      (memRead m a = none ∧ readOrStuck space m a k = .stuck (.unwritten space a)) := by
  cases h : memRead m a with
  | some v => exact .inl ⟨v, rfl, readOrStuck_of_some k h⟩
  | none => exact .inr ⟨rfl, by simp [readOrStuck, h]⟩

/-- The outcome of a flow that is not stuck is a next state. -/
theorem Flow.Ends.outcome_next {f : Flow} {g r : State → Prop} (h : f.Ends g r (fun _ => False)) :
    ∃ t, f.outcome = .next t ∧ (g t ∨ r t) := by
  cases f with
  | goesOn s => exact ⟨s, rfl, .inl h⟩
  | raised s => exact ⟨s, rfl, .inr h⟩
  | stuck e => exact h.elim

/-- Every next state of a flow is the state it went on to or raised at. -/
theorem Flow.Ends.of_outcome {f : Flow} {g r : State → Prop} {k : Fault → Prop} {t : State} (h : f.Ends g r k)
    (ht : f.outcome = .next t) : g t ∨ r t := by
  cases f with
  | goesOn s => cases ht; exact .inl h
  | raised s => cases ht; exact .inr h
  | stuck e => cases ht

/-- What a load command or START does in each phase. -/
theorem acceptedInIdle_of_idle {effect : State → State} {s : State} (h : s.phase = .idle) :
    acceptedInIdle effect s = effect s := by
  simp [acceptedInIdle, h]

theorem acceptedInIdle_of_not_idle {effect : State → State} {s : State} (h : s.phase ≠ .idle) :
    acceptedInIdle effect s = s.dropCommand := by
  simp [acceptedInIdle, h]

end Sys2Proof.Machine
end

