-- ==== Sys2Proof/Laws/Memory.lean ====
section
/-!
SUPPORT. Memories and register files: a read after a write, and that every operation keeps the canonical form.
-/

namespace Sys2Proof.Machine

variable {α : Type}

@[simp] theorem memRead_nil (a : Nat) : memRead ([] : List (Nat × α)) a = none := rfl

/-- A read after a write. -/
theorem memRead_memWrite (m : List (Nat × α)) (a b : Nat) (v : α) :
    memRead (memWrite m a v) b = if a = b then some v else memRead m b := by
  induction m with
  | nil => rfl
  | cons e rest ih =>
    obtain ⟨k, w⟩ := e
    simp only [memWrite]
    split
    · rfl
    · split
      · subst_vars
        simp only [memRead]
        split <;> rfl
      · simp only [memRead, ih]
        split_ifs <;> first | rfl | omega

@[simp] theorem memRead_memWrite_self (m : List (Nat × α)) (a : Nat) (v : α) :
    memRead (memWrite m a v) a = some v := by
  simp [memRead_memWrite]

theorem memRead_memWrite_of_ne (m : List (Nat × α)) {a b : Nat} (v : α) (h : a ≠ b) :
    memRead (memWrite m a v) b = memRead m b := by
  simp [memRead_memWrite, h]

/-- A read after an erasure. -/
theorem memRead_memErase (m : List (Nat × α)) (a b : Nat) :
    memRead (memErase m a) b = if a = b then none else memRead m b := by
  induction m with
  | nil => simp [memErase]
  | cons e rest ih =>
    obtain ⟨k, w⟩ := e
    simp only [memErase] at ih ⊢
    by_cases hk : k = a
    · subst hk
      simp only [ne_eq, not_true_eq_false, decide_false, Bool.false_eq_true, not_false_eq_true, List.filter_cons_of_neg,
        ih, memRead]
      split_ifs <;> rfl
    · simp only [ne_eq, hk, not_false_eq_true, decide_true, List.filter_cons_of_pos, memRead, ih]
      split_ifs <;> first | rfl | omega

/-- A register read after a register write. -/
theorem regRead_regWrite (f : List (Nat × Rgba)) (a b : Nat) (v : Rgba) :
    regRead (regWrite f a v) b = if a = b then v else regRead f b := by
  unfold regWrite regRead
  split
  · subst_vars
    rw [memRead_memErase]
    split <;> rfl
  · rw [memRead_memWrite]
    split <;> rfl

@[simp] theorem regRead_regWrite_self (f : List (Nat × Rgba)) (a : Nat) (v : Rgba) :
    regRead (regWrite f a v) a = v := by
  simp [regRead_regWrite]

theorem regRead_regWrite_of_ne (f : List (Nat × Rgba)) {a b : Nat} (v : Rgba) (h : a ≠ b) :
    regRead (regWrite f a v) b = regRead f b := by
  simp [regRead_regWrite, h]

/-! ### The canonical form -/

theorem memRising_mono {lo lo' : Nat} (h : lo' ≤ lo) (m : List (Nat × α)) (hm : memRising lo m = true) :
    memRising lo' m = true := by
  cases m with
  | nil => rfl
  | cons e rest =>
    obtain ⟨k, w⟩ := e
    simp only [memRising, Bool.and_eq_true, decide_eq_true_eq] at hm ⊢
    exact ⟨by omega, hm.2⟩

theorem memRising_memWrite (m : List (Nat × α)) (lo a : Nat) (v : α) (ha : lo ≤ a) (hm : memRising lo m = true) :
    memRising lo (memWrite m a v) = true := by
  induction m generalizing lo with
  | nil => simp [memWrite, memRising, ha]
  | cons e rest ih =>
    obtain ⟨k, w⟩ := e
    simp only [memRising, Bool.and_eq_true, decide_eq_true_eq] at hm
    simp only [memWrite]
    split
    · simp only [memRising, Bool.and_eq_true, decide_eq_true_eq]
      exact ⟨ha, by omega, hm.2⟩
    · split
      · simp only [memRising, Bool.and_eq_true, decide_eq_true_eq]
        exact ⟨ha, by subst_vars; exact hm.2⟩
      · simp only [memRising, Bool.and_eq_true, decide_eq_true_eq]
        exact ⟨hm.1, ih (k + 1) (by omega) hm.2⟩

/-- A memory write keeps the canonical form. -/
theorem memWf_memWrite (m : List (Nat × α)) (a : Nat) (v : α) (hm : memWf m = true) : memWf (memWrite m a v) = true :=
  memRising_memWrite m 0 a v (Nat.zero_le a) hm

theorem memRising_filter (p : Nat × α → Bool) (m : List (Nat × α)) (lo : Nat) (hm : memRising lo m = true) :
    memRising lo (m.filter p) = true := by
  induction m generalizing lo with
  | nil => rfl
  | cons e rest ih =>
    obtain ⟨k, w⟩ := e
    simp only [memRising, Bool.and_eq_true, decide_eq_true_eq] at hm
    by_cases hp : p (k, w) = true
    · simp only [List.filter_cons_of_pos hp, memRising, Bool.and_eq_true, decide_eq_true_eq]
      exact ⟨hm.1, ih (k + 1) hm.2⟩
    · simp only [List.filter_cons_of_neg hp]
      exact memRising_mono (by omega) _ (ih (k + 1) hm.2)

/-- An erasure keeps the canonical form. -/
theorem memWf_memErase (m : List (Nat × α)) (a : Nat) (hm : memWf m = true) : memWf (memErase m a) = true :=
  memRising_filter _ m 0 hm

theorem mem_memWrite (m : List (Nat × α)) (a : Nat) (v : α) (e : Nat × α) (he : e ∈ memWrite m a v) :
    e = (a, v) ∨ e ∈ m := by
  induction m with
  | nil => simpa [memWrite] using he
  | cons x rest ih =>
    obtain ⟨k, w⟩ := x
    simp only [memWrite] at he
    split at he
    · simpa using he
    · split at he
      · rcases List.mem_cons.mp he with h | h
        · exact .inl h
        · exact .inr (List.mem_cons_of_mem _ h)
      · rcases List.mem_cons.mp he with h | h
        · exact .inr (h ▸ List.mem_cons_self)
        · exact (ih h).imp id (List.mem_cons_of_mem _)

/-- A register write keeps the canonical form. -/
theorem regWf_regWrite (f : List (Nat × Rgba)) (k : Nat) (v : Rgba) (hf : regWf f = true) :
    regWf (regWrite f k v) = true := by
  simp only [regWf, Bool.and_eq_true, List.all_eq_true] at hf ⊢
  unfold regWrite
  split
  · refine ⟨memWf_memErase f k hf.1, fun e he => hf.2 e ?_⟩
    exact (List.mem_filter.mp he).1
  · rename_i hv
    refine ⟨memWf_memWrite f k v hf.1, fun e he => ?_⟩
    rcases mem_memWrite f k v e he with h | h
    · subst h
      simpa using hv
    · exact hf.2 e h

/-! ### Filled memories -/

theorem memFilled_iff (m : List (Nat × α)) (n : Nat) :
    memFilled m n = true ↔ ∀ a < n, (memRead m a).isSome = true := by
  simp [memFilled, List.all_eq_true]

theorem memRead_of_memFilled {m : List (Nat × α)} {n a : Nat} (h : memFilled m n = true) (ha : a < n) :
    ∃ v, memRead m a = some v :=
  Option.isSome_iff_exists.mp ((memFilled_iff m n).mp h a ha)

@[simp] theorem memFilled_zero (m : List (Nat × α)) : memFilled m 0 = true := rfl

theorem memFilled_mono {m : List (Nat × α)} {n k : Nat} (hk : k ≤ n) (h : memFilled m n = true) :
    memFilled m k = true :=
  (memFilled_iff m k).mpr fun a ha => (memFilled_iff m n).mp h a (by omega)

theorem memFilled_memWrite {m : List (Nat × α)} {n : Nat} (a : Nat) (v : α) (h : memFilled m n = true) :
    memFilled (memWrite m a v) n = true :=
  (memFilled_iff _ n).mpr fun b hb => by
    rw [memRead_memWrite]
    split
    · rfl
    · exact (memFilled_iff m n).mp h b hb

theorem memFilled_memWrite_next {m : List (Nat × α)} {n : Nat} (v : α) (h : memFilled m n = true) :
    memFilled (memWrite m n v) (n + 1) = true :=
  (memFilled_iff _ _).mpr fun b hb => by
    rw [memRead_memWrite]
    split
    · rfl
    · exact (memFilled_iff m n).mp h b (by omega)

end Sys2Proof.Machine
end

