-- ==== Sys2Proof/Laws/Canonical.lean ====
section
/-!
SUPPORT. Every operation over the memories and the register files keeps their canonical form, `Memory.wf`.
-/

namespace Sys2Proof.Machine

/-- The canonical form, one index space after the other. -/
theorem Memory.wf_iff (s : State) : Memory.wf s = true ↔
    memWf s.src = true ∧ memWf s.pb = true ∧ memWf s.cb = true ∧ memWf s.fb = true ∧ regWf s.pal = true ∧
      regWf s.wpal = true := by
  simp [Memory.wf, and_assoc]

theorem wf_reset : Memory.wf State.reset = true := rfl

theorem wf_storePb {s : State} (h : Memory.wf s = true) (v : Byte) : Memory.wf (s.storePb v) = true := by
  rw [Memory.wf_iff] at *
  exact ⟨h.1, memWf_memWrite _ _ _ h.2.1, h.2.2⟩

theorem wf_storeCb {s : State} (h : Memory.wf s = true) (k : Nat) (v : Byte) : Memory.wf (s.storeCb k v) = true := by
  rw [Memory.wf_iff] at *
  exact ⟨h.1, h.2.1, memWf_memWrite _ _ _ h.2.2.1, h.2.2.2⟩

theorem wf_emitPixel {s : State} (h : Memory.wf s = true) (px : Rgba) : Memory.wf (s.emitPixel px) = true := by
  rw [Memory.wf_iff] at *
  exact ⟨h.1, h.2.1, h.2.2.1, memWf_memWrite _ _ _ h.2.2.2.1, h.2.2.2.2⟩

theorem wf_holdPixel {s : State} (h : Memory.wf s = true) (px : Rgba) : Memory.wf (s.holdPixel px) = true :=
  wf_emitPixel h px

theorem wf_srcAppend {s : State} (h : Memory.wf s = true) (v : Byte) : Memory.wf (s.srcAppend v) = true := by
  unfold State.srcAppend
  split
  · rw [Memory.wf_iff] at *
    exact ⟨memWf_memWrite _ _ _ h.1, h.2⟩
  · exact h

theorem wf_palAppend {s : State} (h : Memory.wf s = true) (r g b : Byte) : Memory.wf (s.palAppend r g b) = true := by
  unfold State.palAppend
  split
  · rw [Memory.wf_iff] at *
    exact ⟨h.1, h.2.1, h.2.2.1, h.2.2.2.1, regWf_regWrite _ _ _ h.2.2.2.2.1, h.2.2.2.2.2⟩
  · exact h

/-- Copying a run of entries keeps the form of a register file. -/
theorem regWf_copies (place : Nat → Nat) (value : Nat → List (Nat × Rgba) → Rgba) (count : Nat)
    (f : List (Nat × Rgba)) (h : regWf f = true) :
    regWf (forUpdate (fun k w => regWrite w (place k) (value k w)) count 0 f) = true :=
  forUpdate_inv (fun _ w => regWf w = true) count 0 f h (fun _ _ _ _ hw => regWf_regWrite _ _ _ hw)

theorem wf_copyPalette {s : State} (h : Memory.wf s = true) : Memory.wf s.copyPalette = true := by
  rw [Memory.wf_iff] at *
  exact ⟨h.1, h.2.1, h.2.2.1, h.2.2.2.1, h.2.2.2.2.1, regWf_copies (fun k => k) (fun k _ => regRead s.pal k) _ _ h.2.2.2.2.2⟩

theorem wf_halfBrightDouble {s : State} (h : Memory.wf s = true) : Memory.wf s.halfBrightDouble = true := by
  unfold State.halfBrightDouble
  split
  · exact h
  · rw [Memory.wf_iff] at *
    exact ⟨h.1, h.2.1, h.2.2.1, h.2.2.2.1, h.2.2.2.2.1,
      regWf_copies (fun k => s.wpalCount + k) (fun k w => halfBright (regRead w k)) _ _ h.2.2.2.2.2⟩

/-- RESET empties every memory. -/
theorem wf_resetBlock (s : State) : Memory.wf s.resetBlock = true := rfl

end Sys2Proof.Machine
end

