-- ==== Sys2Proof/Laws/State.lean ====
section
/-!
SUPPORT. One lemma per field per named update of the state, true by rfl: what an update writes and what it leaves.
-/

namespace Sys2Proof.Machine

@[simp] theorem State.raise_width (s : State) (f : Cause) (info : Nat) : (s.raise f info).width = s.width := rfl
@[simp] theorem State.raise_height (s : State) (f : Cause) (info : Nat) : (s.raise f info).height = s.height := rfl
@[simp] theorem State.raise_nplanes (s : State) (f : Cause) (info : Nat) : (s.raise f info).nplanes = s.nplanes := rfl
@[simp] theorem State.raise_comp (s : State) (f : Cause) (info : Nat) : (s.raise f info).comp = s.comp := rfl
@[simp] theorem State.raise_mode (s : State) (f : Cause) (info : Nat) : (s.raise f info).mode = s.mode := rfl
@[simp] theorem State.raise_phase (s : State) (f : Cause) (info : Nat) : (s.raise f info).phase = .fault := rfl
@[simp] theorem State.raise_hdrValid (s : State) (f : Cause) (info : Nat) : (s.raise f info).hdrValid = s.hdrValid := rfl
@[simp] theorem State.raise_palOvf (s : State) (f : Cause) (info : Nat) : (s.raise f info).palOvf = s.palOvf := rfl
@[simp] theorem State.raise_srcOvf (s : State) (f : Cause) (info : Nat) : (s.raise f info).srcOvf = s.srcOvf := rfl
@[simp] theorem State.raise_cmdErr (s : State) (f : Cause) (info : Nat) : (s.raise f info).cmdErr = s.cmdErr := rfl
@[simp] theorem State.raise_err (s : State) (f : Cause) (info : Nat) : (s.raise f info).err = f.code := rfl
@[simp] theorem State.raise_errInfo (s : State) (f : Cause) (info : Nat) : (s.raise f info).errInfo = BitVec.ofNat 32 info := rfl
@[simp] theorem State.raise_pal (s : State) (f : Cause) (info : Nat) : (s.raise f info).pal = s.pal := rfl
@[simp] theorem State.raise_palCount (s : State) (f : Cause) (info : Nat) : (s.raise f info).palCount = s.palCount := rfl
@[simp] theorem State.raise_wpal (s : State) (f : Cause) (info : Nat) : (s.raise f info).wpal = s.wpal := rfl
@[simp] theorem State.raise_wpalCount (s : State) (f : Cause) (info : Nat) : (s.raise f info).wpalCount = s.wpalCount := rfl
@[simp] theorem State.raise_prev (s : State) (f : Cause) (info : Nat) : (s.raise f info).prev = s.prev := rfl
@[simp] theorem State.raise_src (s : State) (f : Cause) (info : Nat) : (s.raise f info).src = s.src := rfl
@[simp] theorem State.raise_srcLen (s : State) (f : Cause) (info : Nat) : (s.raise f info).srcLen = s.srcLen := rfl
@[simp] theorem State.raise_srcPc (s : State) (f : Cause) (info : Nat) : (s.raise f info).srcPc = s.srcPc := rfl
@[simp] theorem State.raise_pb (s : State) (f : Cause) (info : Nat) : (s.raise f info).pb = s.pb := rfl
@[simp] theorem State.raise_pbFill (s : State) (f : Cause) (info : Nat) : (s.raise f info).pbFill = s.pbFill := rfl
@[simp] theorem State.raise_cb (s : State) (f : Cause) (info : Nat) : (s.raise f info).cb = s.cb := rfl
@[simp] theorem State.raise_fb (s : State) (f : Cause) (info : Nat) : (s.raise f info).fb = s.fb := rfl
@[simp] theorem State.raise_stage (s : State) (f : Cause) (info : Nat) : (s.raise f info).stage = s.stage := rfl
@[simp] theorem State.raise_pix (s : State) (f : Cause) (info : Nat) : (s.raise f info).pix = s.pix := rfl
@[simp] theorem State.raise_cfg (s : State) (f : Cause) (info : Nat) : (s.raise f info).cfg = s.cfg := rfl
@[simp] theorem State.raise_inbox (s : State) (f : Cause) (info : Nat) : (s.raise f info).inbox = s.inbox := rfl
@[simp] theorem State.raise_reply (s : State) (f : Cause) (info : Nat) : (s.raise f info).reply = s.reply := rfl
@[simp] theorem State.raise_freeCount (s : State) (f : Cause) (info : Nat) : (s.raise f info).freeCount = s.freeCount := rfl
@[simp] theorem State.raise_pitch (s : State) (f : Cause) (info : Nat) : (s.raise f info).pitch = s.pitch := rfl
@[simp] theorem State.raise_rowBytes (s : State) (f : Cause) (info : Nat) : (s.raise f info).rowBytes = s.rowBytes := rfl
@[simp] theorem State.raise_pbSize (s : State) (f : Cause) (info : Nat) : (s.raise f info).pbSize = s.pbSize := rfl
@[simp] theorem State.raise_npix (s : State) (f : Cause) (info : Nat) : (s.raise f info).npix = s.npix := rfl
@[simp] theorem State.raise_ham (s : State) (f : Cause) (info : Nat) : (s.raise f info).ham = s.ham := rfl
@[simp] theorem State.raise_ehb (s : State) (f : Cause) (info : Nat) : (s.raise f info).ehb = s.ehb := rfl
@[simp] theorem State.raise_wpalBits (s : State) (f : Cause) (info : Nat) : (s.raise f info).wpalBits = s.wpalBits := rfl

@[simp] theorem State.dropCommand_width (s : State) : (s.dropCommand).width = s.width := rfl
@[simp] theorem State.dropCommand_height (s : State) : (s.dropCommand).height = s.height := rfl
@[simp] theorem State.dropCommand_nplanes (s : State) : (s.dropCommand).nplanes = s.nplanes := rfl
@[simp] theorem State.dropCommand_comp (s : State) : (s.dropCommand).comp = s.comp := rfl
@[simp] theorem State.dropCommand_mode (s : State) : (s.dropCommand).mode = s.mode := rfl
@[simp] theorem State.dropCommand_phase (s : State) : (s.dropCommand).phase = s.phase := rfl
@[simp] theorem State.dropCommand_hdrValid (s : State) : (s.dropCommand).hdrValid = s.hdrValid := rfl
@[simp] theorem State.dropCommand_palOvf (s : State) : (s.dropCommand).palOvf = s.palOvf := rfl
@[simp] theorem State.dropCommand_srcOvf (s : State) : (s.dropCommand).srcOvf = s.srcOvf := rfl
@[simp] theorem State.dropCommand_cmdErr (s : State) : (s.dropCommand).cmdErr = true := rfl
@[simp] theorem State.dropCommand_err (s : State) : (s.dropCommand).err = s.err := rfl
@[simp] theorem State.dropCommand_errInfo (s : State) : (s.dropCommand).errInfo = s.errInfo := rfl
@[simp] theorem State.dropCommand_pal (s : State) : (s.dropCommand).pal = s.pal := rfl
@[simp] theorem State.dropCommand_palCount (s : State) : (s.dropCommand).palCount = s.palCount := rfl
@[simp] theorem State.dropCommand_wpal (s : State) : (s.dropCommand).wpal = s.wpal := rfl
@[simp] theorem State.dropCommand_wpalCount (s : State) : (s.dropCommand).wpalCount = s.wpalCount := rfl
@[simp] theorem State.dropCommand_prev (s : State) : (s.dropCommand).prev = s.prev := rfl
@[simp] theorem State.dropCommand_src (s : State) : (s.dropCommand).src = s.src := rfl
@[simp] theorem State.dropCommand_srcLen (s : State) : (s.dropCommand).srcLen = s.srcLen := rfl
@[simp] theorem State.dropCommand_srcPc (s : State) : (s.dropCommand).srcPc = s.srcPc := rfl
@[simp] theorem State.dropCommand_pb (s : State) : (s.dropCommand).pb = s.pb := rfl
@[simp] theorem State.dropCommand_pbFill (s : State) : (s.dropCommand).pbFill = s.pbFill := rfl
@[simp] theorem State.dropCommand_cb (s : State) : (s.dropCommand).cb = s.cb := rfl
@[simp] theorem State.dropCommand_fb (s : State) : (s.dropCommand).fb = s.fb := rfl
@[simp] theorem State.dropCommand_stage (s : State) : (s.dropCommand).stage = s.stage := rfl
@[simp] theorem State.dropCommand_pix (s : State) : (s.dropCommand).pix = s.pix := rfl
@[simp] theorem State.dropCommand_cfg (s : State) : (s.dropCommand).cfg = s.cfg := rfl
@[simp] theorem State.dropCommand_inbox (s : State) : (s.dropCommand).inbox = s.inbox := rfl
@[simp] theorem State.dropCommand_reply (s : State) : (s.dropCommand).reply = s.reply := rfl
@[simp] theorem State.dropCommand_freeCount (s : State) : (s.dropCommand).freeCount = s.freeCount := rfl
@[simp] theorem State.dropCommand_pitch (s : State) : (s.dropCommand).pitch = s.pitch := rfl
@[simp] theorem State.dropCommand_rowBytes (s : State) : (s.dropCommand).rowBytes = s.rowBytes := rfl
@[simp] theorem State.dropCommand_pbSize (s : State) : (s.dropCommand).pbSize = s.pbSize := rfl
@[simp] theorem State.dropCommand_npix (s : State) : (s.dropCommand).npix = s.npix := rfl
@[simp] theorem State.dropCommand_ham (s : State) : (s.dropCommand).ham = s.ham := rfl
@[simp] theorem State.dropCommand_ehb (s : State) : (s.dropCommand).ehb = s.ehb := rfl
@[simp] theorem State.dropCommand_wpalBits (s : State) : (s.dropCommand).wpalBits = s.wpalBits := rfl

@[simp] theorem State.storePb_width (s : State) (v : Byte) : (s.storePb v).width = s.width := rfl
@[simp] theorem State.storePb_height (s : State) (v : Byte) : (s.storePb v).height = s.height := rfl
@[simp] theorem State.storePb_nplanes (s : State) (v : Byte) : (s.storePb v).nplanes = s.nplanes := rfl
@[simp] theorem State.storePb_comp (s : State) (v : Byte) : (s.storePb v).comp = s.comp := rfl
@[simp] theorem State.storePb_mode (s : State) (v : Byte) : (s.storePb v).mode = s.mode := rfl
@[simp] theorem State.storePb_phase (s : State) (v : Byte) : (s.storePb v).phase = s.phase := rfl
@[simp] theorem State.storePb_hdrValid (s : State) (v : Byte) : (s.storePb v).hdrValid = s.hdrValid := rfl
@[simp] theorem State.storePb_palOvf (s : State) (v : Byte) : (s.storePb v).palOvf = s.palOvf := rfl
@[simp] theorem State.storePb_srcOvf (s : State) (v : Byte) : (s.storePb v).srcOvf = s.srcOvf := rfl
@[simp] theorem State.storePb_cmdErr (s : State) (v : Byte) : (s.storePb v).cmdErr = s.cmdErr := rfl
@[simp] theorem State.storePb_err (s : State) (v : Byte) : (s.storePb v).err = s.err := rfl
@[simp] theorem State.storePb_errInfo (s : State) (v : Byte) : (s.storePb v).errInfo = s.errInfo := rfl
@[simp] theorem State.storePb_pal (s : State) (v : Byte) : (s.storePb v).pal = s.pal := rfl
@[simp] theorem State.storePb_palCount (s : State) (v : Byte) : (s.storePb v).palCount = s.palCount := rfl
@[simp] theorem State.storePb_wpal (s : State) (v : Byte) : (s.storePb v).wpal = s.wpal := rfl
@[simp] theorem State.storePb_wpalCount (s : State) (v : Byte) : (s.storePb v).wpalCount = s.wpalCount := rfl
@[simp] theorem State.storePb_prev (s : State) (v : Byte) : (s.storePb v).prev = s.prev := rfl
@[simp] theorem State.storePb_src (s : State) (v : Byte) : (s.storePb v).src = s.src := rfl
@[simp] theorem State.storePb_srcLen (s : State) (v : Byte) : (s.storePb v).srcLen = s.srcLen := rfl
@[simp] theorem State.storePb_srcPc (s : State) (v : Byte) : (s.storePb v).srcPc = s.srcPc := rfl
@[simp] theorem State.storePb_pb (s : State) (v : Byte) : (s.storePb v).pb = memWrite s.pb s.pbFill v := rfl
@[simp] theorem State.storePb_pbFill (s : State) (v : Byte) : (s.storePb v).pbFill = s.pbFill + 1 := rfl
@[simp] theorem State.storePb_cb (s : State) (v : Byte) : (s.storePb v).cb = s.cb := rfl
@[simp] theorem State.storePb_fb (s : State) (v : Byte) : (s.storePb v).fb = s.fb := rfl
@[simp] theorem State.storePb_stage (s : State) (v : Byte) : (s.storePb v).stage = s.stage := rfl
@[simp] theorem State.storePb_pix (s : State) (v : Byte) : (s.storePb v).pix = s.pix := rfl
@[simp] theorem State.storePb_cfg (s : State) (v : Byte) : (s.storePb v).cfg = s.cfg := rfl
@[simp] theorem State.storePb_inbox (s : State) (v : Byte) : (s.storePb v).inbox = s.inbox := rfl
@[simp] theorem State.storePb_reply (s : State) (v : Byte) : (s.storePb v).reply = s.reply := rfl
@[simp] theorem State.storePb_freeCount (s : State) (v : Byte) : (s.storePb v).freeCount = s.freeCount := rfl
@[simp] theorem State.storePb_pitch (s : State) (v : Byte) : (s.storePb v).pitch = s.pitch := rfl
@[simp] theorem State.storePb_rowBytes (s : State) (v : Byte) : (s.storePb v).rowBytes = s.rowBytes := rfl
@[simp] theorem State.storePb_pbSize (s : State) (v : Byte) : (s.storePb v).pbSize = s.pbSize := rfl
@[simp] theorem State.storePb_npix (s : State) (v : Byte) : (s.storePb v).npix = s.npix := rfl
@[simp] theorem State.storePb_ham (s : State) (v : Byte) : (s.storePb v).ham = s.ham := rfl
@[simp] theorem State.storePb_ehb (s : State) (v : Byte) : (s.storePb v).ehb = s.ehb := rfl
@[simp] theorem State.storePb_wpalBits (s : State) (v : Byte) : (s.storePb v).wpalBits = s.wpalBits := rfl

@[simp] theorem State.storeCb_width (s : State) (k : Nat) (v : Byte) : (s.storeCb k v).width = s.width := rfl
@[simp] theorem State.storeCb_height (s : State) (k : Nat) (v : Byte) : (s.storeCb k v).height = s.height := rfl
@[simp] theorem State.storeCb_nplanes (s : State) (k : Nat) (v : Byte) : (s.storeCb k v).nplanes = s.nplanes := rfl
@[simp] theorem State.storeCb_comp (s : State) (k : Nat) (v : Byte) : (s.storeCb k v).comp = s.comp := rfl
@[simp] theorem State.storeCb_mode (s : State) (k : Nat) (v : Byte) : (s.storeCb k v).mode = s.mode := rfl
@[simp] theorem State.storeCb_phase (s : State) (k : Nat) (v : Byte) : (s.storeCb k v).phase = s.phase := rfl
@[simp] theorem State.storeCb_hdrValid (s : State) (k : Nat) (v : Byte) : (s.storeCb k v).hdrValid = s.hdrValid := rfl
@[simp] theorem State.storeCb_palOvf (s : State) (k : Nat) (v : Byte) : (s.storeCb k v).palOvf = s.palOvf := rfl
@[simp] theorem State.storeCb_srcOvf (s : State) (k : Nat) (v : Byte) : (s.storeCb k v).srcOvf = s.srcOvf := rfl
@[simp] theorem State.storeCb_cmdErr (s : State) (k : Nat) (v : Byte) : (s.storeCb k v).cmdErr = s.cmdErr := rfl
@[simp] theorem State.storeCb_err (s : State) (k : Nat) (v : Byte) : (s.storeCb k v).err = s.err := rfl
@[simp] theorem State.storeCb_errInfo (s : State) (k : Nat) (v : Byte) : (s.storeCb k v).errInfo = s.errInfo := rfl
@[simp] theorem State.storeCb_pal (s : State) (k : Nat) (v : Byte) : (s.storeCb k v).pal = s.pal := rfl
@[simp] theorem State.storeCb_palCount (s : State) (k : Nat) (v : Byte) : (s.storeCb k v).palCount = s.palCount := rfl
@[simp] theorem State.storeCb_wpal (s : State) (k : Nat) (v : Byte) : (s.storeCb k v).wpal = s.wpal := rfl
@[simp] theorem State.storeCb_wpalCount (s : State) (k : Nat) (v : Byte) : (s.storeCb k v).wpalCount = s.wpalCount := rfl
@[simp] theorem State.storeCb_prev (s : State) (k : Nat) (v : Byte) : (s.storeCb k v).prev = s.prev := rfl
@[simp] theorem State.storeCb_src (s : State) (k : Nat) (v : Byte) : (s.storeCb k v).src = s.src := rfl
@[simp] theorem State.storeCb_srcLen (s : State) (k : Nat) (v : Byte) : (s.storeCb k v).srcLen = s.srcLen := rfl
@[simp] theorem State.storeCb_srcPc (s : State) (k : Nat) (v : Byte) : (s.storeCb k v).srcPc = s.srcPc := rfl
@[simp] theorem State.storeCb_pb (s : State) (k : Nat) (v : Byte) : (s.storeCb k v).pb = s.pb := rfl
@[simp] theorem State.storeCb_pbFill (s : State) (k : Nat) (v : Byte) : (s.storeCb k v).pbFill = s.pbFill := rfl
@[simp] theorem State.storeCb_cb (s : State) (k : Nat) (v : Byte) : (s.storeCb k v).cb = memWrite s.cb k v := rfl
@[simp] theorem State.storeCb_fb (s : State) (k : Nat) (v : Byte) : (s.storeCb k v).fb = s.fb := rfl
@[simp] theorem State.storeCb_stage (s : State) (k : Nat) (v : Byte) : (s.storeCb k v).stage = s.stage := rfl
@[simp] theorem State.storeCb_pix (s : State) (k : Nat) (v : Byte) : (s.storeCb k v).pix = s.pix := rfl
@[simp] theorem State.storeCb_cfg (s : State) (k : Nat) (v : Byte) : (s.storeCb k v).cfg = s.cfg := rfl
@[simp] theorem State.storeCb_inbox (s : State) (k : Nat) (v : Byte) : (s.storeCb k v).inbox = s.inbox := rfl
@[simp] theorem State.storeCb_reply (s : State) (k : Nat) (v : Byte) : (s.storeCb k v).reply = s.reply := rfl
@[simp] theorem State.storeCb_freeCount (s : State) (k : Nat) (v : Byte) : (s.storeCb k v).freeCount = s.freeCount := rfl
@[simp] theorem State.storeCb_pitch (s : State) (k : Nat) (v : Byte) : (s.storeCb k v).pitch = s.pitch := rfl
@[simp] theorem State.storeCb_rowBytes (s : State) (k : Nat) (v : Byte) : (s.storeCb k v).rowBytes = s.rowBytes := rfl
@[simp] theorem State.storeCb_pbSize (s : State) (k : Nat) (v : Byte) : (s.storeCb k v).pbSize = s.pbSize := rfl
@[simp] theorem State.storeCb_npix (s : State) (k : Nat) (v : Byte) : (s.storeCb k v).npix = s.npix := rfl
@[simp] theorem State.storeCb_ham (s : State) (k : Nat) (v : Byte) : (s.storeCb k v).ham = s.ham := rfl
@[simp] theorem State.storeCb_ehb (s : State) (k : Nat) (v : Byte) : (s.storeCb k v).ehb = s.ehb := rfl
@[simp] theorem State.storeCb_wpalBits (s : State) (k : Nat) (v : Byte) : (s.storeCb k v).wpalBits = s.wpalBits := rfl

@[simp] theorem State.emitPixel_width (s : State) (px : Rgba) : (s.emitPixel px).width = s.width := rfl
@[simp] theorem State.emitPixel_height (s : State) (px : Rgba) : (s.emitPixel px).height = s.height := rfl
@[simp] theorem State.emitPixel_nplanes (s : State) (px : Rgba) : (s.emitPixel px).nplanes = s.nplanes := rfl
@[simp] theorem State.emitPixel_comp (s : State) (px : Rgba) : (s.emitPixel px).comp = s.comp := rfl
@[simp] theorem State.emitPixel_mode (s : State) (px : Rgba) : (s.emitPixel px).mode = s.mode := rfl
@[simp] theorem State.emitPixel_phase (s : State) (px : Rgba) : (s.emitPixel px).phase = s.phase := rfl
@[simp] theorem State.emitPixel_hdrValid (s : State) (px : Rgba) : (s.emitPixel px).hdrValid = s.hdrValid := rfl
@[simp] theorem State.emitPixel_palOvf (s : State) (px : Rgba) : (s.emitPixel px).palOvf = s.palOvf := rfl
@[simp] theorem State.emitPixel_srcOvf (s : State) (px : Rgba) : (s.emitPixel px).srcOvf = s.srcOvf := rfl
@[simp] theorem State.emitPixel_cmdErr (s : State) (px : Rgba) : (s.emitPixel px).cmdErr = s.cmdErr := rfl
@[simp] theorem State.emitPixel_err (s : State) (px : Rgba) : (s.emitPixel px).err = s.err := rfl
@[simp] theorem State.emitPixel_errInfo (s : State) (px : Rgba) : (s.emitPixel px).errInfo = s.errInfo := rfl
@[simp] theorem State.emitPixel_pal (s : State) (px : Rgba) : (s.emitPixel px).pal = s.pal := rfl
@[simp] theorem State.emitPixel_palCount (s : State) (px : Rgba) : (s.emitPixel px).palCount = s.palCount := rfl
@[simp] theorem State.emitPixel_wpal (s : State) (px : Rgba) : (s.emitPixel px).wpal = s.wpal := rfl
@[simp] theorem State.emitPixel_wpalCount (s : State) (px : Rgba) : (s.emitPixel px).wpalCount = s.wpalCount := rfl
@[simp] theorem State.emitPixel_prev (s : State) (px : Rgba) : (s.emitPixel px).prev = s.prev := rfl
@[simp] theorem State.emitPixel_src (s : State) (px : Rgba) : (s.emitPixel px).src = s.src := rfl
@[simp] theorem State.emitPixel_srcLen (s : State) (px : Rgba) : (s.emitPixel px).srcLen = s.srcLen := rfl
@[simp] theorem State.emitPixel_srcPc (s : State) (px : Rgba) : (s.emitPixel px).srcPc = s.srcPc := rfl
@[simp] theorem State.emitPixel_pb (s : State) (px : Rgba) : (s.emitPixel px).pb = s.pb := rfl
@[simp] theorem State.emitPixel_pbFill (s : State) (px : Rgba) : (s.emitPixel px).pbFill = s.pbFill := rfl
@[simp] theorem State.emitPixel_cb (s : State) (px : Rgba) : (s.emitPixel px).cb = s.cb := rfl
@[simp] theorem State.emitPixel_fb (s : State) (px : Rgba) : (s.emitPixel px).fb = memWrite s.fb s.pix px := rfl
@[simp] theorem State.emitPixel_stage (s : State) (px : Rgba) : (s.emitPixel px).stage = s.stage := rfl
@[simp] theorem State.emitPixel_pix (s : State) (px : Rgba) : (s.emitPixel px).pix = s.pix + 1 := rfl
@[simp] theorem State.emitPixel_cfg (s : State) (px : Rgba) : (s.emitPixel px).cfg = s.cfg := rfl
@[simp] theorem State.emitPixel_inbox (s : State) (px : Rgba) : (s.emitPixel px).inbox = s.inbox := rfl
@[simp] theorem State.emitPixel_reply (s : State) (px : Rgba) : (s.emitPixel px).reply = s.reply := rfl
@[simp] theorem State.emitPixel_freeCount (s : State) (px : Rgba) : (s.emitPixel px).freeCount = s.freeCount := rfl
@[simp] theorem State.emitPixel_pitch (s : State) (px : Rgba) : (s.emitPixel px).pitch = s.pitch := rfl
@[simp] theorem State.emitPixel_rowBytes (s : State) (px : Rgba) : (s.emitPixel px).rowBytes = s.rowBytes := rfl
@[simp] theorem State.emitPixel_pbSize (s : State) (px : Rgba) : (s.emitPixel px).pbSize = s.pbSize := rfl
@[simp] theorem State.emitPixel_npix (s : State) (px : Rgba) : (s.emitPixel px).npix = s.npix := rfl
@[simp] theorem State.emitPixel_ham (s : State) (px : Rgba) : (s.emitPixel px).ham = s.ham := rfl
@[simp] theorem State.emitPixel_ehb (s : State) (px : Rgba) : (s.emitPixel px).ehb = s.ehb := rfl
@[simp] theorem State.emitPixel_wpalBits (s : State) (px : Rgba) : (s.emitPixel px).wpalBits = s.wpalBits := rfl

@[simp] theorem State.setPrev_width (s : State) (px : Rgba) : (s.setPrev px).width = s.width := rfl
@[simp] theorem State.setPrev_height (s : State) (px : Rgba) : (s.setPrev px).height = s.height := rfl
@[simp] theorem State.setPrev_nplanes (s : State) (px : Rgba) : (s.setPrev px).nplanes = s.nplanes := rfl
@[simp] theorem State.setPrev_comp (s : State) (px : Rgba) : (s.setPrev px).comp = s.comp := rfl
@[simp] theorem State.setPrev_mode (s : State) (px : Rgba) : (s.setPrev px).mode = s.mode := rfl
@[simp] theorem State.setPrev_phase (s : State) (px : Rgba) : (s.setPrev px).phase = s.phase := rfl
@[simp] theorem State.setPrev_hdrValid (s : State) (px : Rgba) : (s.setPrev px).hdrValid = s.hdrValid := rfl
@[simp] theorem State.setPrev_palOvf (s : State) (px : Rgba) : (s.setPrev px).palOvf = s.palOvf := rfl
@[simp] theorem State.setPrev_srcOvf (s : State) (px : Rgba) : (s.setPrev px).srcOvf = s.srcOvf := rfl
@[simp] theorem State.setPrev_cmdErr (s : State) (px : Rgba) : (s.setPrev px).cmdErr = s.cmdErr := rfl
@[simp] theorem State.setPrev_err (s : State) (px : Rgba) : (s.setPrev px).err = s.err := rfl
@[simp] theorem State.setPrev_errInfo (s : State) (px : Rgba) : (s.setPrev px).errInfo = s.errInfo := rfl
@[simp] theorem State.setPrev_pal (s : State) (px : Rgba) : (s.setPrev px).pal = s.pal := rfl
@[simp] theorem State.setPrev_palCount (s : State) (px : Rgba) : (s.setPrev px).palCount = s.palCount := rfl
@[simp] theorem State.setPrev_wpal (s : State) (px : Rgba) : (s.setPrev px).wpal = s.wpal := rfl
@[simp] theorem State.setPrev_wpalCount (s : State) (px : Rgba) : (s.setPrev px).wpalCount = s.wpalCount := rfl
@[simp] theorem State.setPrev_prev (s : State) (px : Rgba) : (s.setPrev px).prev = px := rfl
@[simp] theorem State.setPrev_src (s : State) (px : Rgba) : (s.setPrev px).src = s.src := rfl
@[simp] theorem State.setPrev_srcLen (s : State) (px : Rgba) : (s.setPrev px).srcLen = s.srcLen := rfl
@[simp] theorem State.setPrev_srcPc (s : State) (px : Rgba) : (s.setPrev px).srcPc = s.srcPc := rfl
@[simp] theorem State.setPrev_pb (s : State) (px : Rgba) : (s.setPrev px).pb = s.pb := rfl
@[simp] theorem State.setPrev_pbFill (s : State) (px : Rgba) : (s.setPrev px).pbFill = s.pbFill := rfl
@[simp] theorem State.setPrev_cb (s : State) (px : Rgba) : (s.setPrev px).cb = s.cb := rfl
@[simp] theorem State.setPrev_fb (s : State) (px : Rgba) : (s.setPrev px).fb = s.fb := rfl
@[simp] theorem State.setPrev_stage (s : State) (px : Rgba) : (s.setPrev px).stage = s.stage := rfl
@[simp] theorem State.setPrev_pix (s : State) (px : Rgba) : (s.setPrev px).pix = s.pix := rfl
@[simp] theorem State.setPrev_cfg (s : State) (px : Rgba) : (s.setPrev px).cfg = s.cfg := rfl
@[simp] theorem State.setPrev_inbox (s : State) (px : Rgba) : (s.setPrev px).inbox = s.inbox := rfl
@[simp] theorem State.setPrev_reply (s : State) (px : Rgba) : (s.setPrev px).reply = s.reply := rfl
@[simp] theorem State.setPrev_freeCount (s : State) (px : Rgba) : (s.setPrev px).freeCount = s.freeCount := rfl
@[simp] theorem State.setPrev_pitch (s : State) (px : Rgba) : (s.setPrev px).pitch = s.pitch := rfl
@[simp] theorem State.setPrev_rowBytes (s : State) (px : Rgba) : (s.setPrev px).rowBytes = s.rowBytes := rfl
@[simp] theorem State.setPrev_pbSize (s : State) (px : Rgba) : (s.setPrev px).pbSize = s.pbSize := rfl
@[simp] theorem State.setPrev_npix (s : State) (px : Rgba) : (s.setPrev px).npix = s.npix := rfl
@[simp] theorem State.setPrev_ham (s : State) (px : Rgba) : (s.setPrev px).ham = s.ham := rfl
@[simp] theorem State.setPrev_ehb (s : State) (px : Rgba) : (s.setPrev px).ehb = s.ehb := rfl
@[simp] theorem State.setPrev_wpalBits (s : State) (px : Rgba) : (s.setPrev px).wpalBits = s.wpalBits := rfl

@[simp] theorem State.goto_width (s : State) (st : Stage) : (s.goto st).width = s.width := rfl
@[simp] theorem State.goto_height (s : State) (st : Stage) : (s.goto st).height = s.height := rfl
@[simp] theorem State.goto_nplanes (s : State) (st : Stage) : (s.goto st).nplanes = s.nplanes := rfl
@[simp] theorem State.goto_comp (s : State) (st : Stage) : (s.goto st).comp = s.comp := rfl
@[simp] theorem State.goto_mode (s : State) (st : Stage) : (s.goto st).mode = s.mode := rfl
@[simp] theorem State.goto_phase (s : State) (st : Stage) : (s.goto st).phase = s.phase := rfl
@[simp] theorem State.goto_hdrValid (s : State) (st : Stage) : (s.goto st).hdrValid = s.hdrValid := rfl
@[simp] theorem State.goto_palOvf (s : State) (st : Stage) : (s.goto st).palOvf = s.palOvf := rfl
@[simp] theorem State.goto_srcOvf (s : State) (st : Stage) : (s.goto st).srcOvf = s.srcOvf := rfl
@[simp] theorem State.goto_cmdErr (s : State) (st : Stage) : (s.goto st).cmdErr = s.cmdErr := rfl
@[simp] theorem State.goto_err (s : State) (st : Stage) : (s.goto st).err = s.err := rfl
@[simp] theorem State.goto_errInfo (s : State) (st : Stage) : (s.goto st).errInfo = s.errInfo := rfl
@[simp] theorem State.goto_pal (s : State) (st : Stage) : (s.goto st).pal = s.pal := rfl
@[simp] theorem State.goto_palCount (s : State) (st : Stage) : (s.goto st).palCount = s.palCount := rfl
@[simp] theorem State.goto_wpal (s : State) (st : Stage) : (s.goto st).wpal = s.wpal := rfl
@[simp] theorem State.goto_wpalCount (s : State) (st : Stage) : (s.goto st).wpalCount = s.wpalCount := rfl
@[simp] theorem State.goto_prev (s : State) (st : Stage) : (s.goto st).prev = s.prev := rfl
@[simp] theorem State.goto_src (s : State) (st : Stage) : (s.goto st).src = s.src := rfl
@[simp] theorem State.goto_srcLen (s : State) (st : Stage) : (s.goto st).srcLen = s.srcLen := rfl
@[simp] theorem State.goto_srcPc (s : State) (st : Stage) : (s.goto st).srcPc = s.srcPc := rfl
@[simp] theorem State.goto_pb (s : State) (st : Stage) : (s.goto st).pb = s.pb := rfl
@[simp] theorem State.goto_pbFill (s : State) (st : Stage) : (s.goto st).pbFill = s.pbFill := rfl
@[simp] theorem State.goto_cb (s : State) (st : Stage) : (s.goto st).cb = s.cb := rfl
@[simp] theorem State.goto_fb (s : State) (st : Stage) : (s.goto st).fb = s.fb := rfl
@[simp] theorem State.goto_stage (s : State) (st : Stage) : (s.goto st).stage = st := rfl
@[simp] theorem State.goto_pix (s : State) (st : Stage) : (s.goto st).pix = s.pix := rfl
@[simp] theorem State.goto_cfg (s : State) (st : Stage) : (s.goto st).cfg = s.cfg := rfl
@[simp] theorem State.goto_inbox (s : State) (st : Stage) : (s.goto st).inbox = s.inbox := rfl
@[simp] theorem State.goto_reply (s : State) (st : Stage) : (s.goto st).reply = s.reply := rfl
@[simp] theorem State.goto_freeCount (s : State) (st : Stage) : (s.goto st).freeCount = s.freeCount := rfl
@[simp] theorem State.goto_pitch (s : State) (st : Stage) : (s.goto st).pitch = s.pitch := rfl
@[simp] theorem State.goto_rowBytes (s : State) (st : Stage) : (s.goto st).rowBytes = s.rowBytes := rfl
@[simp] theorem State.goto_pbSize (s : State) (st : Stage) : (s.goto st).pbSize = s.pbSize := rfl
@[simp] theorem State.goto_npix (s : State) (st : Stage) : (s.goto st).npix = s.npix := rfl
@[simp] theorem State.goto_ham (s : State) (st : Stage) : (s.goto st).ham = s.ham := rfl
@[simp] theorem State.goto_ehb (s : State) (st : Stage) : (s.goto st).ehb = s.ehb := rfl
@[simp] theorem State.goto_wpalBits (s : State) (st : Stage) : (s.goto st).wpalBits = s.wpalBits := rfl

@[simp] theorem State.holdPixel_width (s : State) (px : Rgba) : (s.holdPixel px).width = s.width := rfl
@[simp] theorem State.holdPixel_height (s : State) (px : Rgba) : (s.holdPixel px).height = s.height := rfl
@[simp] theorem State.holdPixel_nplanes (s : State) (px : Rgba) : (s.holdPixel px).nplanes = s.nplanes := rfl
@[simp] theorem State.holdPixel_comp (s : State) (px : Rgba) : (s.holdPixel px).comp = s.comp := rfl
@[simp] theorem State.holdPixel_mode (s : State) (px : Rgba) : (s.holdPixel px).mode = s.mode := rfl
@[simp] theorem State.holdPixel_phase (s : State) (px : Rgba) : (s.holdPixel px).phase = s.phase := rfl
@[simp] theorem State.holdPixel_hdrValid (s : State) (px : Rgba) : (s.holdPixel px).hdrValid = s.hdrValid := rfl
@[simp] theorem State.holdPixel_palOvf (s : State) (px : Rgba) : (s.holdPixel px).palOvf = s.palOvf := rfl
@[simp] theorem State.holdPixel_srcOvf (s : State) (px : Rgba) : (s.holdPixel px).srcOvf = s.srcOvf := rfl
@[simp] theorem State.holdPixel_cmdErr (s : State) (px : Rgba) : (s.holdPixel px).cmdErr = s.cmdErr := rfl
@[simp] theorem State.holdPixel_err (s : State) (px : Rgba) : (s.holdPixel px).err = s.err := rfl
@[simp] theorem State.holdPixel_errInfo (s : State) (px : Rgba) : (s.holdPixel px).errInfo = s.errInfo := rfl
@[simp] theorem State.holdPixel_pal (s : State) (px : Rgba) : (s.holdPixel px).pal = s.pal := rfl
@[simp] theorem State.holdPixel_palCount (s : State) (px : Rgba) : (s.holdPixel px).palCount = s.palCount := rfl
@[simp] theorem State.holdPixel_wpal (s : State) (px : Rgba) : (s.holdPixel px).wpal = s.wpal := rfl
@[simp] theorem State.holdPixel_wpalCount (s : State) (px : Rgba) : (s.holdPixel px).wpalCount = s.wpalCount := rfl
@[simp] theorem State.holdPixel_prev (s : State) (px : Rgba) : (s.holdPixel px).prev = px := rfl
@[simp] theorem State.holdPixel_src (s : State) (px : Rgba) : (s.holdPixel px).src = s.src := rfl
@[simp] theorem State.holdPixel_srcLen (s : State) (px : Rgba) : (s.holdPixel px).srcLen = s.srcLen := rfl
@[simp] theorem State.holdPixel_srcPc (s : State) (px : Rgba) : (s.holdPixel px).srcPc = s.srcPc := rfl
@[simp] theorem State.holdPixel_pb (s : State) (px : Rgba) : (s.holdPixel px).pb = s.pb := rfl
@[simp] theorem State.holdPixel_pbFill (s : State) (px : Rgba) : (s.holdPixel px).pbFill = s.pbFill := rfl
@[simp] theorem State.holdPixel_cb (s : State) (px : Rgba) : (s.holdPixel px).cb = s.cb := rfl
@[simp] theorem State.holdPixel_fb (s : State) (px : Rgba) : (s.holdPixel px).fb = memWrite s.fb s.pix px := rfl
@[simp] theorem State.holdPixel_stage (s : State) (px : Rgba) : (s.holdPixel px).stage = s.stage := rfl
@[simp] theorem State.holdPixel_pix (s : State) (px : Rgba) : (s.holdPixel px).pix = s.pix + 1 := rfl
@[simp] theorem State.holdPixel_cfg (s : State) (px : Rgba) : (s.holdPixel px).cfg = s.cfg := rfl
@[simp] theorem State.holdPixel_inbox (s : State) (px : Rgba) : (s.holdPixel px).inbox = s.inbox := rfl
@[simp] theorem State.holdPixel_reply (s : State) (px : Rgba) : (s.holdPixel px).reply = s.reply := rfl
@[simp] theorem State.holdPixel_freeCount (s : State) (px : Rgba) : (s.holdPixel px).freeCount = s.freeCount := rfl
@[simp] theorem State.holdPixel_pitch (s : State) (px : Rgba) : (s.holdPixel px).pitch = s.pitch := rfl
@[simp] theorem State.holdPixel_rowBytes (s : State) (px : Rgba) : (s.holdPixel px).rowBytes = s.rowBytes := rfl
@[simp] theorem State.holdPixel_pbSize (s : State) (px : Rgba) : (s.holdPixel px).pbSize = s.pbSize := rfl
@[simp] theorem State.holdPixel_npix (s : State) (px : Rgba) : (s.holdPixel px).npix = s.npix := rfl
@[simp] theorem State.holdPixel_ham (s : State) (px : Rgba) : (s.holdPixel px).ham = s.ham := rfl
@[simp] theorem State.holdPixel_ehb (s : State) (px : Rgba) : (s.holdPixel px).ehb = s.ehb := rfl
@[simp] theorem State.holdPixel_wpalBits (s : State) (px : Rgba) : (s.holdPixel px).wpalBits = s.wpalBits := rfl

@[simp] theorem State.copyPalette_width (s : State) : (s.copyPalette).width = s.width := rfl
@[simp] theorem State.copyPalette_height (s : State) : (s.copyPalette).height = s.height := rfl
@[simp] theorem State.copyPalette_nplanes (s : State) : (s.copyPalette).nplanes = s.nplanes := rfl
@[simp] theorem State.copyPalette_comp (s : State) : (s.copyPalette).comp = s.comp := rfl
@[simp] theorem State.copyPalette_mode (s : State) : (s.copyPalette).mode = s.mode := rfl
@[simp] theorem State.copyPalette_phase (s : State) : (s.copyPalette).phase = s.phase := rfl
@[simp] theorem State.copyPalette_hdrValid (s : State) : (s.copyPalette).hdrValid = s.hdrValid := rfl
@[simp] theorem State.copyPalette_palOvf (s : State) : (s.copyPalette).palOvf = s.palOvf := rfl
@[simp] theorem State.copyPalette_srcOvf (s : State) : (s.copyPalette).srcOvf = s.srcOvf := rfl
@[simp] theorem State.copyPalette_cmdErr (s : State) : (s.copyPalette).cmdErr = s.cmdErr := rfl
@[simp] theorem State.copyPalette_err (s : State) : (s.copyPalette).err = s.err := rfl
@[simp] theorem State.copyPalette_errInfo (s : State) : (s.copyPalette).errInfo = s.errInfo := rfl
@[simp] theorem State.copyPalette_pal (s : State) : (s.copyPalette).pal = s.pal := rfl
@[simp] theorem State.copyPalette_palCount (s : State) : (s.copyPalette).palCount = s.palCount := rfl
@[simp] theorem State.copyPalette_wpalCount (s : State) : (s.copyPalette).wpalCount = s.palCount := rfl
@[simp] theorem State.copyPalette_prev (s : State) : (s.copyPalette).prev = s.prev := rfl
@[simp] theorem State.copyPalette_src (s : State) : (s.copyPalette).src = s.src := rfl
@[simp] theorem State.copyPalette_srcLen (s : State) : (s.copyPalette).srcLen = s.srcLen := rfl
@[simp] theorem State.copyPalette_srcPc (s : State) : (s.copyPalette).srcPc = s.srcPc := rfl
@[simp] theorem State.copyPalette_pb (s : State) : (s.copyPalette).pb = s.pb := rfl
@[simp] theorem State.copyPalette_pbFill (s : State) : (s.copyPalette).pbFill = s.pbFill := rfl
@[simp] theorem State.copyPalette_cb (s : State) : (s.copyPalette).cb = s.cb := rfl
@[simp] theorem State.copyPalette_fb (s : State) : (s.copyPalette).fb = s.fb := rfl
@[simp] theorem State.copyPalette_stage (s : State) : (s.copyPalette).stage = s.stage := rfl
@[simp] theorem State.copyPalette_pix (s : State) : (s.copyPalette).pix = s.pix := rfl
@[simp] theorem State.copyPalette_cfg (s : State) : (s.copyPalette).cfg = s.cfg := rfl
@[simp] theorem State.copyPalette_inbox (s : State) : (s.copyPalette).inbox = s.inbox := rfl
@[simp] theorem State.copyPalette_reply (s : State) : (s.copyPalette).reply = s.reply := rfl
@[simp] theorem State.copyPalette_freeCount (s : State) : (s.copyPalette).freeCount = s.freeCount := rfl
@[simp] theorem State.copyPalette_pitch (s : State) : (s.copyPalette).pitch = s.pitch := rfl
@[simp] theorem State.copyPalette_rowBytes (s : State) : (s.copyPalette).rowBytes = s.rowBytes := rfl
@[simp] theorem State.copyPalette_pbSize (s : State) : (s.copyPalette).pbSize = s.pbSize := rfl
@[simp] theorem State.copyPalette_npix (s : State) : (s.copyPalette).npix = s.npix := rfl
@[simp] theorem State.copyPalette_ham (s : State) : (s.copyPalette).ham = s.ham := rfl
@[simp] theorem State.copyPalette_ehb (s : State) : (s.copyPalette).ehb = s.ehb := rfl

@[simp] theorem State.launch_width (s : State) : (s.launch).width = s.width := rfl
@[simp] theorem State.launch_height (s : State) : (s.launch).height = s.height := rfl
@[simp] theorem State.launch_nplanes (s : State) : (s.launch).nplanes = s.nplanes := rfl
@[simp] theorem State.launch_comp (s : State) : (s.launch).comp = s.comp := rfl
@[simp] theorem State.launch_mode (s : State) : (s.launch).mode = s.mode := rfl
@[simp] theorem State.launch_phase (s : State) : (s.launch).phase = .busy := rfl
@[simp] theorem State.launch_hdrValid (s : State) : (s.launch).hdrValid = s.hdrValid := rfl
@[simp] theorem State.launch_palOvf (s : State) : (s.launch).palOvf = s.palOvf := rfl
@[simp] theorem State.launch_srcOvf (s : State) : (s.launch).srcOvf = s.srcOvf := rfl
@[simp] theorem State.launch_cmdErr (s : State) : (s.launch).cmdErr = s.cmdErr := rfl
@[simp] theorem State.launch_err (s : State) : (s.launch).err = s.err := rfl
@[simp] theorem State.launch_errInfo (s : State) : (s.launch).errInfo = s.errInfo := rfl
@[simp] theorem State.launch_pal (s : State) : (s.launch).pal = s.pal := rfl
@[simp] theorem State.launch_palCount (s : State) : (s.launch).palCount = s.palCount := rfl
@[simp] theorem State.launch_wpal (s : State) : (s.launch).wpal = s.wpal := rfl
@[simp] theorem State.launch_wpalCount (s : State) : (s.launch).wpalCount = 0 := rfl
@[simp] theorem State.launch_prev (s : State) : (s.launch).prev = Const.rowStart := rfl
@[simp] theorem State.launch_src (s : State) : (s.launch).src = s.src := rfl
@[simp] theorem State.launch_srcLen (s : State) : (s.launch).srcLen = s.srcLen := rfl
@[simp] theorem State.launch_srcPc (s : State) : (s.launch).srcPc = 0 := rfl
@[simp] theorem State.launch_pb (s : State) : (s.launch).pb = s.pb := rfl
@[simp] theorem State.launch_pbFill (s : State) : (s.launch).pbFill = 0 := rfl
@[simp] theorem State.launch_cb (s : State) : (s.launch).cb = s.cb := rfl
@[simp] theorem State.launch_fb (s : State) : (s.launch).fb = s.fb := rfl
@[simp] theorem State.launch_stage (s : State) : (s.launch).stage = .unpack := rfl
@[simp] theorem State.launch_pix (s : State) : (s.launch).pix = s.pix := rfl
@[simp] theorem State.launch_cfg (s : State) : (s.launch).cfg = s.cfg := rfl
@[simp] theorem State.launch_inbox (s : State) : (s.launch).inbox = s.inbox := rfl
@[simp] theorem State.launch_reply (s : State) : (s.launch).reply = s.reply := rfl
@[simp] theorem State.launch_freeCount (s : State) : (s.launch).freeCount = s.freeCount := rfl
@[simp] theorem State.launch_pitch (s : State) : (s.launch).pitch = s.pitch := rfl
@[simp] theorem State.launch_rowBytes (s : State) : (s.launch).rowBytes = s.rowBytes := rfl
@[simp] theorem State.launch_pbSize (s : State) : (s.launch).pbSize = s.pbSize := rfl
@[simp] theorem State.launch_npix (s : State) : (s.launch).npix = s.npix := rfl
@[simp] theorem State.launch_ham (s : State) : (s.launch).ham = s.ham := rfl
@[simp] theorem State.launch_ehb (s : State) : (s.launch).ehb = s.ehb := rfl

@[simp] theorem State.resetBlock_width (s : State) : s.resetBlock.width = State.reset.width := rfl
@[simp] theorem State.resetBlock_height (s : State) : s.resetBlock.height = State.reset.height := rfl
@[simp] theorem State.resetBlock_nplanes (s : State) : s.resetBlock.nplanes = State.reset.nplanes := rfl
@[simp] theorem State.resetBlock_comp (s : State) : s.resetBlock.comp = State.reset.comp := rfl
@[simp] theorem State.resetBlock_mode (s : State) : s.resetBlock.mode = State.reset.mode := rfl
@[simp] theorem State.resetBlock_phase (s : State) : s.resetBlock.phase = State.reset.phase := rfl
@[simp] theorem State.resetBlock_hdrValid (s : State) : s.resetBlock.hdrValid = State.reset.hdrValid := rfl
@[simp] theorem State.resetBlock_palOvf (s : State) : s.resetBlock.palOvf = State.reset.palOvf := rfl
@[simp] theorem State.resetBlock_srcOvf (s : State) : s.resetBlock.srcOvf = State.reset.srcOvf := rfl
@[simp] theorem State.resetBlock_cmdErr (s : State) : s.resetBlock.cmdErr = State.reset.cmdErr := rfl
@[simp] theorem State.resetBlock_err (s : State) : s.resetBlock.err = State.reset.err := rfl
@[simp] theorem State.resetBlock_errInfo (s : State) : s.resetBlock.errInfo = State.reset.errInfo := rfl
@[simp] theorem State.resetBlock_pal (s : State) : s.resetBlock.pal = State.reset.pal := rfl
@[simp] theorem State.resetBlock_palCount (s : State) : s.resetBlock.palCount = State.reset.palCount := rfl
@[simp] theorem State.resetBlock_wpal (s : State) : s.resetBlock.wpal = State.reset.wpal := rfl
@[simp] theorem State.resetBlock_wpalCount (s : State) : s.resetBlock.wpalCount = State.reset.wpalCount := rfl
@[simp] theorem State.resetBlock_prev (s : State) : s.resetBlock.prev = State.reset.prev := rfl
@[simp] theorem State.resetBlock_src (s : State) : s.resetBlock.src = State.reset.src := rfl
@[simp] theorem State.resetBlock_srcLen (s : State) : s.resetBlock.srcLen = State.reset.srcLen := rfl
@[simp] theorem State.resetBlock_srcPc (s : State) : s.resetBlock.srcPc = State.reset.srcPc := rfl
@[simp] theorem State.resetBlock_pb (s : State) : s.resetBlock.pb = State.reset.pb := rfl
@[simp] theorem State.resetBlock_pbFill (s : State) : s.resetBlock.pbFill = State.reset.pbFill := rfl
@[simp] theorem State.resetBlock_cb (s : State) : s.resetBlock.cb = State.reset.cb := rfl
@[simp] theorem State.resetBlock_fb (s : State) : s.resetBlock.fb = State.reset.fb := rfl
@[simp] theorem State.resetBlock_stage (s : State) : s.resetBlock.stage = State.reset.stage := rfl
@[simp] theorem State.resetBlock_pix (s : State) : s.resetBlock.pix = State.reset.pix := rfl
@[simp] theorem State.resetBlock_cfg (s : State) : s.resetBlock.cfg = s.cfg := rfl
@[simp] theorem State.resetBlock_inbox (s : State) : s.resetBlock.inbox = s.inbox := rfl
@[simp] theorem State.resetBlock_reply (s : State) : s.resetBlock.reply = State.reset.reply := rfl
@[simp] theorem State.resetBlock_freeCount (s : State) : s.resetBlock.freeCount = s.freeCount := rfl

end Sys2Proof.Machine
end

