-- ==== Sys2Proof/Laws/Frame.lean ====
section
/-!
SUPPORT. What the instructions of each unit can change, said once for each unit, and how a step splits into a command
that arrives or a move of the block.
-/

namespace Sys2Proof.Machine

/-! ### The step -/

/-- A command that is on its way only comes nearer. -/
theorem State.tick_eq (s : State) : s.tick = { s with inbox := s.tick.inbox } := by
  unfold State.tick; split <;> rfl

@[simp] theorem State.tick_width (s : State) : s.tick.width = s.width := by rw [State.tick_eq]
@[simp] theorem State.tick_height (s : State) : s.tick.height = s.height := by rw [State.tick_eq]
@[simp] theorem State.tick_nplanes (s : State) : s.tick.nplanes = s.nplanes := by rw [State.tick_eq]
@[simp] theorem State.tick_comp (s : State) : s.tick.comp = s.comp := by rw [State.tick_eq]
@[simp] theorem State.tick_mode (s : State) : s.tick.mode = s.mode := by rw [State.tick_eq]
@[simp] theorem State.tick_phase (s : State) : s.tick.phase = s.phase := by rw [State.tick_eq]
@[simp] theorem State.tick_hdrValid (s : State) : s.tick.hdrValid = s.hdrValid := by rw [State.tick_eq]
@[simp] theorem State.tick_palOvf (s : State) : s.tick.palOvf = s.palOvf := by rw [State.tick_eq]
@[simp] theorem State.tick_srcOvf (s : State) : s.tick.srcOvf = s.srcOvf := by rw [State.tick_eq]
@[simp] theorem State.tick_cmdErr (s : State) : s.tick.cmdErr = s.cmdErr := by rw [State.tick_eq]
@[simp] theorem State.tick_err (s : State) : s.tick.err = s.err := by rw [State.tick_eq]
@[simp] theorem State.tick_errInfo (s : State) : s.tick.errInfo = s.errInfo := by rw [State.tick_eq]
@[simp] theorem State.tick_pal (s : State) : s.tick.pal = s.pal := by rw [State.tick_eq]
@[simp] theorem State.tick_palCount (s : State) : s.tick.palCount = s.palCount := by rw [State.tick_eq]
@[simp] theorem State.tick_wpal (s : State) : s.tick.wpal = s.wpal := by rw [State.tick_eq]
@[simp] theorem State.tick_wpalCount (s : State) : s.tick.wpalCount = s.wpalCount := by rw [State.tick_eq]
@[simp] theorem State.tick_prev (s : State) : s.tick.prev = s.prev := by rw [State.tick_eq]
@[simp] theorem State.tick_src (s : State) : s.tick.src = s.src := by rw [State.tick_eq]
@[simp] theorem State.tick_srcLen (s : State) : s.tick.srcLen = s.srcLen := by rw [State.tick_eq]
@[simp] theorem State.tick_srcPc (s : State) : s.tick.srcPc = s.srcPc := by rw [State.tick_eq]
@[simp] theorem State.tick_pb (s : State) : s.tick.pb = s.pb := by rw [State.tick_eq]
@[simp] theorem State.tick_pbFill (s : State) : s.tick.pbFill = s.pbFill := by rw [State.tick_eq]
@[simp] theorem State.tick_cb (s : State) : s.tick.cb = s.cb := by rw [State.tick_eq]
@[simp] theorem State.tick_fb (s : State) : s.tick.fb = s.fb := by rw [State.tick_eq]
@[simp] theorem State.tick_stage (s : State) : s.tick.stage = s.stage := by rw [State.tick_eq]
@[simp] theorem State.tick_pix (s : State) : s.tick.pix = s.pix := by rw [State.tick_eq]
@[simp] theorem State.tick_cfg (s : State) : s.tick.cfg = s.cfg := by rw [State.tick_eq]
@[simp] theorem State.tick_reply (s : State) : s.tick.reply = s.reply := by rw [State.tick_eq]
@[simp] theorem State.tick_freeCount (s : State) : s.tick.freeCount = s.freeCount := by rw [State.tick_eq]
@[simp] theorem State.tick_pitch (s : State) : s.tick.pitch = s.pitch := by rw [State.tick_eq]; rfl
@[simp] theorem State.tick_rowBytes (s : State) : s.tick.rowBytes = s.rowBytes := by rw [State.tick_eq]; rfl
@[simp] theorem State.tick_pbSize (s : State) : s.tick.pbSize = s.pbSize := by rw [State.tick_eq]; rfl
@[simp] theorem State.tick_npix (s : State) : s.tick.npix = s.npix := by rw [State.tick_eq]; rfl
@[simp] theorem State.tick_ham (s : State) : s.tick.ham = s.ham := by rw [State.tick_eq]; rfl
@[simp] theorem State.tick_ehb (s : State) : s.tick.ehb = s.ehb := by rw [State.tick_eq]; rfl
@[simp] theorem State.tick_wpalBits (s : State) : s.tick.wpalBits = s.wpalBits := by rw [State.tick_eq]; rfl
@[simp] theorem State.tick_pixelSpace (s : State) : s.tick.pixelSpace = s.pixelSpace := by rw [State.tick_eq]; rfl

/-- Without a command that is due, a step is a move of the block. -/
theorem step_of_due_none {s : State} (h : s.due = none) : step s = blockStep s.tick := by
  unfold step State.tick
  unfold State.due at h
  split at h <;> simp_all

/-- A command that is due runs, at the state that no longer waits for it. -/
theorem step_of_due_some {s : State} {cmd : Instr} (h : s.due = some cmd) :
    ∃ rest, s.inbox = ⟨0, cmd⟩ :: rest ∧ step s = commandStep cmd { s with inbox := rest } := by
  unfold State.due at h
  split at h
  · rename_i rest heq
    cases h
    exact ⟨rest, heq, by simp [step, heq]⟩
  · cases h
  · cases h

/-- What a step that answers is: a host command that was due, a move of the block, or a wait. -/
theorem step_cases {s t : State} (h : step s = .next t) :
    (∃ cmd rest, s.inbox = ⟨0, cmd⟩ :: rest ∧ s.due = some cmd ∧ cmd.isHostCommand = true ∧
      exec cmd { s with inbox := rest } = .next t) ∨
    (s.due = none ∧ s.phase = .busy ∧ unitStep s.tick = .next t) ∨
    (s.due = none ∧ s.phase ≠ .busy ∧ t = s.tick) := by
  cases hd : s.due with
  | some cmd =>
    obtain ⟨rest, hr, hs⟩ := step_of_due_some hd
    rw [hs] at h
    unfold commandStep at h
    split at h
    · exact .inl ⟨cmd, rest, hr, rfl, ‹_›, h⟩
    · cases h
  | none =>
    rw [step_of_due_none hd] at h
    unfold blockStep at h
    rw [State.tick_phase] at h
    cases hp : s.phase <;> rw [hp] at h
    · cases h; exact .inr (.inr ⟨rfl, by decide, rfl⟩)
    · exact .inr (.inl ⟨rfl, rfl, h⟩)
    · cases h; exact .inr (.inr ⟨rfl, by decide, rfl⟩)
    · cases h; exact .inr (.inr ⟨rfl, by decide, rfl⟩)

theorem runSteps_succ {s t : State} (n : Nat) (h : step s = .next t) : runSteps (n + 1) s = runSteps n t := by
  simp [runSteps, h]

/-- The first step of a run that answers. -/
theorem runSteps_succ_cases {s t : State} {n : Nat} (h : runSteps (n + 1) s = .next t) :
    ∃ u, step s = .next u ∧ runSteps n u = .next t := by
  unfold runSteps at h
  split at h
  · exact ⟨_, ‹_›, h⟩
  · cases h
  · cases h

theorem runSteps_add {s u : State} (m n : Nat) (h : runSteps m s = .next u) : runSteps (m + n) s = runSteps n u := by
  induction m generalizing s with
  | zero => cases h; rw [Nat.zero_add]
  | succ m ih =>
    obtain ⟨v, hv, hr⟩ := runSteps_succ_cases h
    rw [Nat.add_right_comm, runSteps_succ _ hv, ih hr]

/-! ### What each unit can change -/

/-- `t` is `s` but for what every unit may write: the sequencer's place and, at a fault, PHASE, ERR, ERR_INFO. -/
def UnitEnds (s t : State) : Prop :=
  (∃ st, t = { s with stage := st }) ∨ ∃ f info, t = s.raise f info

/-- UNPACK: the plane buffer and the two stream counters. -/
def UnpackFrame (s t : State) : Prop := ∃ pb fill pc, UnitEnds { s with pb := pb, pbFill := fill, srcPc := pc } t

/-- DEINT: the pixel codes. -/
def DeintFrame (s t : State) : Prop := ∃ cb, UnitEnds { s with cb := cb } t

/-- FIX: the working palette and its count. -/
def FixFrame (s t : State) : Prop := ∃ w n, UnitEnds { s with wpal := w, wpalCount := n } t

/-- COMP: the image, the loop counter and PREV. -/
def CompFrame (s t : State) : Prop := ∃ fb k px, UnitEnds { s with fb := fb, pix := k, prev := px } t

theorem UnitEnds.refl (s : State) : UnitEnds s s := .inl ⟨s.stage, rfl⟩
theorem UnitEnds.goto (s : State) (st : Stage) : UnitEnds s (s.goto st) := .inl ⟨st, rfl⟩
theorem UnitEnds.raise (s : State) (f : Cause) (info : Nat) : UnitEnds s (s.raise f info) := .inr ⟨f, info, rfl⟩

/-- `t` is `s` but for the plane buffer and the stream counters. -/
def StreamOnly (s t : State) : Prop := ∃ pb fill pc, t = { s with pb := pb, pbFill := fill, srcPc := pc }

theorem StreamOnly.refl (s : State) : StreamOnly s s := ⟨s.pb, s.pbFill, s.srcPc, rfl⟩

theorem StreamOnly.trans {s t u : State} (h : StreamOnly s t) (h' : StreamOnly t u) : StreamOnly s u := by
  obtain ⟨_, _, _, rfl⟩ := h
  obtain ⟨pb, fill, pc, rfl⟩ := h'
  exact ⟨pb, fill, pc, rfl⟩

theorem StreamOnly.frame {s t u : State} (h : StreamOnly s t) (h' : UnitEnds t u) : UnpackFrame s u := by
  obtain ⟨pb, fill, pc, rfl⟩ := h
  exact ⟨pb, fill, pc, h'⟩

theorem litPass_ends (j : Nat) (s : State) :
    (litPass j s).Ends (StreamOnly s) (UnpackFrame s) (fun _ => True) := by
  unfold litPass
  split
  · exact .refl s
  · split
    · exact (StreamOnly.refl s).frame (.raise s _ _)
    · unfold State.fetchSrc
      rcases readOrStuck_cases .src s.src s.srcPc
        (fun v => .goesOn (({ s with srcPc := s.srcPc + 1 } : State).storePb v)) with ⟨v, -, h⟩ | ⟨-, h⟩ <;> rw [h]
      · exact ⟨_, _, _, rfl⟩
      · trivial

theorem repPass_only (d : Byte) (j : Nat) (s : State) : StreamOnly s (repPass d j s) := by
  unfold repPass
  split
  · exact .refl s
  · exact ⟨_, _, _, rfl⟩

theorem execLit_frame {n : BitVec 7} {s t : State} (h : execLit n s = .next t) : UnpackFrame s t := by
  have e := forEach_ends (body := litPass) (fun _ => StreamOnly s) (UnpackFrame s) (fun _ => True) (litCount n) 0 s
    (.refl s) (fun v u _ _ hu => (litPass_ends v u).imp (fun w hw => hu.trans hw)
      (fun w hw => by obtain ⟨_, _, _, rfl⟩ := hu; obtain ⟨pb, fill, pc, hw⟩ := hw; exact ⟨pb, fill, pc, hw⟩)
      (fun _ h => h))
  exact (e.of_outcome h).elim (fun hu => hu.frame (.refl t)) id

theorem execRep_frame {n : BitVec 7} {s t : State} (h : execRep n s = .next t) : UnpackFrame s t := by
  unfold execRep at h
  split at h
  · cases h; exact (StreamOnly.refl s).frame (.raise s _ _)
  · unfold State.fetchSrc at h
    rcases readOrStuck_cases .src s.src s.srcPc (fun d => Flow.goesOn
      (forUpdate (repPass d) (repCount n) 0 { s with srcPc := s.srcPc + 1 })) with ⟨d, -, e⟩ | ⟨-, e⟩ <;> rw [e] at h
    · cases h
      refine StreamOnly.frame ?_ (.refl _)
      exact forUpdate_inv (fun _ => StreamOnly s) _ 0 _ ⟨_, _, _, rfl⟩
        (fun v u _ _ hu => hu.trans (repPass_only d v u))
    · cases h

theorem execRsvd_frame {s t : State} (h : execRsvd s = .next t) : UnpackFrame s t := by
  cases h; exact (StreamOnly.refl s).frame (.raise s _ _)

theorem execUnpackRle_frame {s t : State} (h : execUnpackRle s = .next t) : UnpackFrame s t := by
  cases h; exact (StreamOnly.refl s).frame (.goto s _)

theorem execUnpackUnsupported_frame {v : Byte} {s t : State} (h : execUnpackUnsupported v s = .next t) :
    UnpackFrame s t := by
  cases h; exact (StreamOnly.refl s).frame (.raise s _ _)

theorem execUnpackRaw_frame {s t : State} (h : execUnpackRaw s = .next t) : UnpackFrame s t := by
  have e := forEach_ends (body := rawPass) (fun _ => StreamOnly s) (fun _ => False) (fun _ => True)
    (min s.srcLen s.pbSize) 0 s (.refl s) (fun v u _ _ hu => by
      unfold rawPass
      rcases readOrStuck_cases .src u.src v (fun x => .goesOn { u with pb := memWrite u.pb v x }) with
        ⟨x, -, h⟩ | ⟨-, h⟩ <;> rw [h]
      · exact hu.trans ⟨_, _, _, rfl⟩
      · trivial)
  have e' : ((forEach rawPass (min s.srcLen s.pbSize) 0 s).andThen (fun t => .goesOn
      (({ t with pbFill := min s.srcLen s.pbSize, srcPc := min s.srcLen s.pbSize } : State).goto .deint))).Ends
      (UnpackFrame s) (fun _ => False) (fun _ => True) :=
    Flow.Ends.andThen (e.imp (fun u hu => (hu.trans ⟨u.pb, _, _, rfl⟩).frame (.goto _ _)) (fun _ h => h) (fun _ h => h))
  exact (e'.of_outcome h).elim id (fun h => h.elim)

/-- `t` is `s` but for the pixel codes. -/
def CodesOnly (s t : State) : Prop := ∃ cb, t = { s with cb := cb }

theorem CodesOnly.refl (s : State) : CodesOnly s s := ⟨s.cb, rfl⟩

theorem CodesOnly.storeCb {s t : State} (h : CodesOnly s t) (k : Nat) (v : Byte) : CodesOnly s (t.storeCb k v) := by
  obtain ⟨_, rfl⟩ := h; exact ⟨_, rfl⟩

/-- DEINT raised a fault. -/
def DeintRaised (s t : State) : Prop := ∃ cb f info, t = ({ s with cb := cb } : State).raise f info

theorem deintBit_ends {s t : State} (y p i : Nat) (v : Byte) (k : Nat) (h : CodesOnly s t) :
    (deintBit y p i v k t).Ends (CodesOnly s) (DeintRaised s) (fun _ => True) := by
  unfold deintBit
  dsimp only
  split
  · rcases readOrStuck_cases .cb t.cb (y * t.width.toNat + (i * 8 + k)) (fun c => .goesOn
      (t.storeCb (y * t.width.toNat + (i * 8 + k)) (c ||| BitVec.ofNat 8 (2 ^ p)))) with ⟨c, -, e⟩ | ⟨-, e⟩ <;> rw [e]
    · exact h.storeCb _ _
    · trivial
  · exact h

theorem deintByte_ends {s t : State} (y p i : Nat) (h : CodesOnly s t) :
    (deintByte y p i t).Ends (CodesOnly s) (DeintRaised s) (fun _ => True) := by
  have bits : ∀ v, (forEach (deintBit y p i v) 8 0 t).Ends (CodesOnly s) (DeintRaised s) (fun _ => True) := fun v =>
    forEach_ends (fun _ => CodesOnly s) _ _ 8 0 t h (fun k u _ _ hu => deintBit_ends y p i v k hu)
  unfold deintByte State.pbyte
  split
  · rcases readOrStuck_cases .pb t.pb (t.pbOff y p i) (fun v => forEach (deintBit y p i v) 8 0 t) with
      ⟨v, -, e⟩ | ⟨-, e⟩ <;> rw [e]
    · exact bits v
    · trivial
  · split
    · obtain ⟨cb, rfl⟩ := h; exact ⟨cb, _, _, rfl⟩
    · exact bits 0

theorem deintAll_ends (s : State) : (deintAll s).Ends (CodesOnly s) (DeintRaised s) (fun _ => True) := by
  unfold deintAll
  refine Flow.Ends.andThen ((forEach_ends (body := deintClear) (fun _ => CodesOnly s) (DeintRaised s) (fun _ => True)
    s.npix 0 s (.refl s) (fun k _ _ _ (hu : CodesOnly s _) => hu.storeCb k 0)).imp (fun t ht => ?_) (fun _ h => h) (fun _ h => h))
  exact forEach_ends (fun _ => CodesOnly s) _ _ _ 0 t ht (fun y u _ _ hu =>
    forEach_ends (fun _ => CodesOnly s) _ _ _ 0 u hu (fun p v _ _ hv =>
      forEach_ends (fun _ => CodesOnly s) _ _ _ 0 v hv (fun i w _ _ hw => deintByte_ends y p i hw)))

theorem execDeint_frame {s t : State} (h : execDeint s = .next t) : DeintFrame s t := by
  have e : ((deintAll s).andThen (fun t => .goesOn (t.goto .fix))).Ends (DeintFrame s) (DeintFrame s) (fun _ => True) :=
    Flow.Ends.andThen ((deintAll_ends s).imp (fun u hu => by obtain ⟨cb, rfl⟩ := hu; exact ⟨cb, .goto _ _⟩)
      (fun u hu => by obtain ⟨cb, f, info, rfl⟩ := hu; exact ⟨cb, .raise _ f info⟩) (fun _ h => h))
  exact (e.of_outcome h).elim id id

theorem execFixPass_frame {s t : State} (h : execFixPass s = .next t) : FixFrame s t := by
  cases h; exact ⟨_, _, .goto _ _⟩

theorem execFixEhb_frame {s t : State} (h : execFixEhb s = .next t) : FixFrame s t := by
  cases h
  unfold State.halfBrightDouble
  split
  · exact ⟨_, _, .goto s.copyPalette _⟩
  · exact ⟨_, _, .goto _ _⟩

theorem execFixHamcull_frame {s t : State} (h : execFixHamcull s = .next t) : FixFrame s t := by
  unfold execFixHamcull State.hamCull at h
  dsimp only at h
  split at h
  · split at h
    · cases h; exact ⟨_, _, .raise s.copyPalette _ _⟩
    · cases h; exact ⟨_, _, .goto _ _⟩
  · cases h; exact ⟨_, _, .goto s.copyPalette _⟩

/-- The entries of COMP write the loop counter alone. -/
theorem execCompDirect_frame {s t : State} (h : execCompDirect s = .next t) : ∃ k, UnitEnds { s with pix := k } t := by
  cases h; exact ⟨0, .goto _ _⟩

theorem execCompHam_frame {s t : State} (h : execCompHam s = .next t) : ∃ k, UnitEnds { s with pix := k } t := by
  unfold execCompHam at h
  split at h
  · cases h; exact ⟨s.pix, .raise s _ _⟩
  · cases h; exact ⟨0, .goto _ _⟩

/-- IDX leaves PREV. -/
theorem execIdx_frame {c : Byte} {s t : State} (h : execIdx c s = .next t) : CompFrame s t ∧ t.prev = s.prev := by
  unfold execIdx at h
  split at h
  · cases h; exact ⟨⟨s.fb, s.pix, s.prev, .raise s _ _⟩, rfl⟩
  · cases h; exact ⟨⟨_, _, s.prev, .refl _⟩, rfl⟩

theorem holdPixel_frame (s : State) (px : Rgba) : CompFrame s (s.holdPixel px) := ⟨_, _, _, .refl _⟩

theorem rowStart_eq (s : State) : s.rowStart = { s with prev := s.rowStart.prev } := by
  unfold State.rowStart; split <;> rfl

theorem rowStart_of_direct {s : State} (h : s.ham = false) : s.rowStart = s := by
  unfold State.rowStart; rw [if_neg (by simp [h])]

/-- A step of the pixel loop before the last pixel; in direct mode PREV stays. -/
theorem pixelStep_frame {s t : State} (hp : s.pix < s.npix) (h : pixelStep s = .next t) :
    CompFrame s t ∧ (s.ham = false → t.prev = s.prev) := by
  unfold pixelStep at h
  rw [if_pos hp] at h
  cases hc : memRead s.cb s.pix with
  | none => rw [hc] at h; cases h
  | some c =>
    rw [hc] at h
    have hold : ∀ px, CompFrame s (s.rowStart.holdPixel px) := fun px => by
      rw [rowStart_eq]; exact ⟨_, _, _, .refl _⟩
    dsimp only [runDecoded] at h
    unfold State.pixelSpace at h
    cases hm : hamFlag s.mode with
    | false =>
      rw [hm] at h
      rw [rowStart_of_direct hm] at h
      exact ⟨(execIdx_frame h).1, fun _ => (execIdx_frame h).2⟩
    | true =>
      refine ⟨?_, fun hn => absurd (hm.symm.trans hn) (by decide)⟩
      rw [hm, if_pos rfl] at h
      simp only [decode, decodeHam] at h
      split at h
      · rename_i i hi
        split at hi
        · cases hi; cases h; exact hold _
        · split at hi
          · cases hi
            unfold decodeModify at h
            split at h
            · cases h; exact hold _
            · split at h
              · cases h; exact hold _
              · cases h; exact hold _
          · cases hi
      · cases h

/-- What a move of a running unit can change, by where the sequencer is. -/
theorem unitStep_cases {s t : State} (h : unitStep s = .next t) :
    (s.stage ∈ [Stage.unpack, .rle] ∧ UnpackFrame s t) ∨
    (s.stage = .deint ∧ DeintFrame s t) ∨
    (s.stage = .fix ∧ FixFrame s t) ∨
    (s.stage = .comp ∧ ∃ k, UnitEnds { s with pix := k } t) ∨
    (s.stage = .pixels ∧ s.pix < s.npix ∧ CompFrame s t ∧ (s.ham = false → t.prev = s.prev)) ∨
    (s.stage = .pixels ∧ s.npix ≤ s.pix ∧ t = { s with phase := .done }) := by
  unfold unitStep at h
  obtain ⟨st, hs⟩ : ∃ st, s.stage = st := ⟨_, rfl⟩
  rw [hs] at h
  cases st <;> dsimp only [runDecoded, decode] at h
  · refine .inl ⟨by rw [hs]; decide, ?_⟩
    unfold decodeCompSel at h
    split at h
    · exact execUnpackRaw_frame h
    · split at h
      · exact execUnpackRle_frame h
      · exact execUnpackUnsupported_frame h
  · refine .inl ⟨by rw [hs]; decide, ?_⟩
    unfold rleStep at h
    split at h
    · split at h
      · have lift : ∀ {t}, UnpackFrame { s with srcPc := s.srcPc + 1 } t → UnpackFrame s t :=
          fun ⟨pb, fill, pc, hu⟩ => ⟨pb, fill, pc, hu⟩
        dsimp only [runDecoded, decode] at h
        unfold decodeRle at h
        split at h
        · exact lift (execRsvd_frame h)
        · split at h
          · exact lift (execLit_frame h)
          · exact lift (execRep_frame h)
      · cases h
    · cases h; exact (StreamOnly.refl s).frame (.goto _ _)
  · exact .inr (.inl ⟨hs, execDeint_frame h⟩)
  · refine .inr (.inr (.inl ⟨hs, ?_⟩))
    unfold decodeFixSel at h
    split at h
    · exact execFixEhb_frame h
    · split at h
      · exact execFixHamcull_frame h
      · exact execFixPass_frame h
  · refine .inr (.inr (.inr (.inl ⟨hs, ?_⟩)))
    unfold decodeCompositorSel at h
    split at h
    · exact execCompHam_frame h
    · exact execCompDirect_frame h
  · by_cases hp : s.pix < s.npix
    · exact .inr (.inr (.inr (.inr (.inl ⟨hs, hp, pixelStep_frame hp h⟩))))
    · unfold pixelStep at h
      rw [if_neg hp] at h
      cases h
      exact .inr (.inr (.inr (.inr (.inr ⟨hs, Nat.not_lt.mp hp, rfl⟩))))

/-! ### What the host commands can change -/

/-- A command that was dropped, or a read: only the reply, the free-value count and CMD_ERR, which is never cleared. -/
def ReadFrame (s t : State) : Prop :=
  ∃ r n e, t = { s with reply := r, freeCount := n, cmdErr := e } ∧ (s.cmdErr = true → e = true)

/-- An accepted load command, each with the fields it writes. -/
def LoadFrame (cmd : Instr) (s t : State) : Prop :=
  (∃ w h p c, t = { s with width := w, height := h, nplanes := p, comp := c, hdrValid := true }) ∨
  (∃ m, t = { s with mode := m }) ∨
  (cmd = .palClear ∧ t = { s with palCount := 0, palOvf := false }) ∨
  (∃ r g b, t = s.palAppend r g b) ∨
  (cmd = .srcClear ∧ t = { s with srcLen := 0, srcOvf := false }) ∨
  ∃ v, t = s.srcAppend v

/-- An accepted START: the launch, or a fault. -/
def StartFrame (s t : State) : Prop := t = s.launch ∨ ∃ f info, t = s.raise f info

theorem acceptedInIdle_cases (effect : State → State) (s : State) :
    (s.phase = .idle ∧ acceptedInIdle effect s = effect s) ∨
      (s.phase ≠ .idle ∧ acceptedInIdle effect s = s.dropCommand) := by
  by_cases h : s.phase = .idle
  · exact .inl ⟨h, acceptedInIdle_of_idle h⟩
  · exact .inr ⟨h, acceptedInIdle_of_not_idle h⟩

theorem readFrame_drop (s : State) : ReadFrame s s.dropCommand := ⟨s.reply, s.freeCount, true, rfl, fun _ => rfl⟩

theorem startRest_frame (s : State) : StartFrame s s.startRest := by
  unfold State.startRest
  split_ifs <;> first | exact .inr ⟨_, _, rfl⟩ | exact .inl rfl

/-- What a host command that answers did. -/
theorem command_cases {cmd : Instr} {s t : State} (hc : cmd.isHostCommand = true) (h : exec cmd s = .next t) :
    (cmd = .reset ∧ t = s.resetBlock) ∨ (cmd ≠ .reset ∧ ReadFrame s t) ∨
      (cmd ≠ .reset ∧ cmd ≠ .start ∧ s.phase = .idle ∧ LoadFrame cmd s t) ∨
      (cmd = .start ∧ s.phase = .idle ∧ StartFrame s t) := by
  have load : ∀ effect, exec cmd s = .next (acceptedInIdle effect s) → cmd ≠ .reset → cmd ≠ .start →
      LoadFrame cmd s (effect s) → (cmd = .reset ∧ t = s.resetBlock) ∨ (cmd ≠ .reset ∧ ReadFrame s t) ∨
      (cmd ≠ .reset ∧ cmd ≠ .start ∧ s.phase = .idle ∧ LoadFrame cmd s t) ∨
      (cmd = .start ∧ s.phase = .idle ∧ StartFrame s t) := by
    intro effect he hr hs hl
    rw [h] at he
    cases he
    rcases acceptedInIdle_cases effect s with ⟨hp, e⟩ | ⟨-, e⟩ <;> rw [e]
    · exact .inr (.inr (.inl ⟨hr, hs, hp, hl⟩))
    · exact .inr (.inl ⟨hr, readFrame_drop s⟩)
  cases cmd with
  | reset => cases h; exact .inl ⟨rfl, rfl⟩
  | hdrLoad w hh p c => exact load _ rfl (by simp) (by simp) (.inl ⟨w, hh, p, c, rfl⟩)
  | modeLoad m => exact load _ rfl (by simp) (by simp) (.inr (.inl ⟨m, rfl⟩))
  | palClear => exact load _ rfl (by simp) (by simp) (.inr (.inr (.inl ⟨rfl, rfl⟩)))
  | palPush r g b => exact load _ rfl (by simp) (by simp) (.inr (.inr (.inr (.inl ⟨r, g, b, rfl⟩))))
  | srcClear => exact load _ rfl (by simp) (by simp) (.inr (.inr (.inr (.inr (.inl ⟨rfl, rfl⟩)))))
  | srcPush v => exact load _ rfl (by simp) (by simp) (.inr (.inr (.inr (.inr (.inr ⟨v, rfl⟩)))))
  | start =>
    simp only [exec, execStart, execUnpackUnsupported] at h
    split_ifs at h with hp hv hm
    · cases h; exact .inr (.inl ⟨by simp, readFrame_drop s⟩)
    · cases h; exact .inr (.inr (.inr ⟨rfl, by simpa using hp, .inr ⟨_, _, rfl⟩⟩))
    · cases h; exact .inr (.inr (.inr ⟨rfl, by simpa using hp, .inr ⟨_, _, rfl⟩⟩))
    · cases h; exact .inr (.inr (.inr ⟨rfl, by simpa using hp, startRest_frame s⟩))
  | regRead no =>
    refine .inr (.inl ⟨by simp, ?_⟩)
    simp only [exec, execRegRead, State.readReg] at h
    split at h
    · split at h <;> cases h <;> exact ⟨_, _, s.cmdErr, rfl, id⟩
    · cases h; exact ⟨_, s.freeCount, true, rfl, fun _ => rfl⟩
  | fbRead k =>
    refine .inr (.inl ⟨by simp, ?_⟩)
    simp only [exec, execFbRead] at h
    split at h
    · rcases readOrStuck_cases .fb s.fb k (fun px => .goesOn { s with reply := some (.pixel px) }) with
        ⟨px, -, e⟩ | ⟨-, e⟩ <;> rw [e] at h
      · cases h; exact ⟨_, s.freeCount, s.cmdErr, rfl, id⟩
      · cases h
    · cases h; exact ⟨_, s.freeCount, true, rfl, fun _ => rfl⟩
  | lit | rep | rsvd | idx | hamSet | hamModG | hamModB | hamModR | unpackRaw | unpackRle | unpackUnsupported | deint
  | fixEhb | fixHamcull | fixPass | compDirect | compHam => cases hc

/-! ### No meaning refuses -/

/-- How pseudocode ends is never a refusal. -/
theorem Flow.outcome_ne_refused (f : Flow) (r : Refusal) : f.outcome ≠ .refused r := by cases f <;> nofun

/-- No instruction is refused, in any state. -/
theorem exec_ne_refused (i : Instr) (s : State) (r : Refusal) : exec i s ≠ .refused r := by
  intro h
  cases i
  case rep => simp only [exec, execRep] at h; split at h; cases h; exact Flow.outcome_ne_refused _ _ h
  case start =>
    simp only [exec, execStart] at h
    repeat' split at h
    all_goals cases h
  case idx | compHam | regRead =>
    simp only [exec, execIdx, execCompHam, execRegRead] at h
    split at h <;> cases h
  case fbRead =>
    simp only [exec, execFbRead] at h
    split at h
    · exact Flow.outcome_ne_refused _ _ h
    · cases h
  all_goals first | cases h | exact Flow.outcome_ne_refused _ _ h

/-- What decodes is not refused. -/
theorem runDecoded_ne_refused {sp : Space} {raw : Raw} {i : Instr} (s : State) (h : decode sp raw = .ok i)
    (r : Refusal) : runDecoded sp raw s ≠ .refused r := by
  simp only [runDecoded, h]
  exact exec_ne_refused _ _ _

end Sys2Proof.Machine
end

