-- ==== Sys2Proof/Laws/Driver.lean ====
section
/-!
SUPPORT. What the host's exchanges with the block come to.
-/

namespace Sys2Proof.Machine

@[simp] theorem Exchange.next_andThen {α β : Type} (a : α) (k : α → Exchange β) :
    Exchange.andThen (.next a : Exchange α) k = k a := rfl

/-- A command the host issues is executed by the next step. -/
theorem issueCommand_eq {cmd : Instr} (h : cmd.isHostCommand = true) (s : State) :
    issueCommand cmd s = exec cmd { s with inbox := [] } := if_pos h

/-- A running block that is left alone moves its unit. -/
theorem letRun_of_busy {s : State} (h : s.phase = .busy) : letRun s = unitStep { s with inbox := [] } := by
  show blockStep { s with inbox := [] } = _
  simp [blockStep, h]

theorem issueAll_append (cs ds : List Instr) (s : State) :
    issueAll (cs ++ ds) s = (issueAll cs s).andThen (issueAll ds) := by
  induction cs generalizing s with
  | nil => rfl
  | cons c cs ih =>
    simp only [List.cons_append, issueAll]
    cases issueCommand c s <;> simp [Exchange.andThen, ih]

/-- A register that is exact in every phase reads as it is, and nothing of the block changes. -/
theorem readRegister_eq {no : Nat} (s : State) (hn : no ≤ 12) (he : s.openRange no = none) :
    readRegister no s = .next (s.regValue no, { s with inbox := [], reply := some (.reg (s.regValue no)) }) := by
  have hr : State.readReg { s with inbox := [] } no =
      { s with inbox := [], reply := some (.reg (State.regValue { s with inbox := [] } no)) } := by
    have he' : State.openRange { s with inbox := [] } no = none := he
    simp only [State.readReg, he']
    cases s.phase <;> rfl
  have hv : State.regValue { s with inbox := [] } no = s.regValue no := by
    unfold State.regValue
    split <;> rfl
  have hc : issueCommand (.regRead no) s = .next { s with inbox := [], reply := some (.reg (s.regValue no)) } := by
    rw [issueCommand_eq rfl, exec, execRegRead, if_pos hn, hr, hv]
  rw [readRegister, hc]
  rfl

/-- The PHASE field of STATUS as the host sees it is the phase. -/
theorem phaseField_status (s : State) : phaseField s.status.toNat = s.phase.code.toNat := by
  unfold phaseField State.status
  cases s.phase <;> cases s.hdrValid <;> cases s.palOvf <;> cases s.srcOvf <;> cases s.cmdErr <;> rfl

end Sys2Proof.Machine
end

