-- ==== Sys2Proof/Laws/PerInstr.lean ====
section
/-!
SUPPORT. Per instruction: it has a pattern exactly when some encoding space has it (spec/30_encoding.md R97: the rows
without a mask, DEINT and the host commands, have neither).
-/

namespace Sys2Proof.Laws.HasPattern

/-- The encoder has a pattern for the instruction exactly when it belongs to an encoding space. -/
def Statement (i : Instr) : Prop := (encode i).isSome = true ↔ ∃ sp, i.inSpace sp = true

theorem lit (n : BitVec 7) : Statement (.lit n) :=
  ⟨fun _ => ⟨.rle, rfl⟩, fun _ => rfl⟩
theorem rep (n : BitVec 7) : Statement (.rep n) :=
  ⟨fun _ => ⟨.rle, rfl⟩, fun _ => rfl⟩
theorem rsvd : Statement (.rsvd) :=
  ⟨fun _ => ⟨.rle, rfl⟩, fun _ => rfl⟩
theorem idx (c : Byte) : Statement (.idx c) :=
  ⟨fun _ => ⟨.pixelDirect, rfl⟩, fun _ => rfl⟩
theorem hamSet (c : Byte) : Statement (.hamSet c) :=
  ⟨fun _ => ⟨.pixelHam 256 8, decide_eq_true c.isLt⟩, fun _ => rfl⟩
theorem hamModG (b : Nat) (three : Bool) (val : Byte) : Statement (.hamModG b three val) :=
  ⟨fun _ => ⟨.pixelHam 0 b, by simp [Instr.inSpace]⟩, fun _ => rfl⟩
theorem hamModB (b : Nat) (val : Byte) : Statement (.hamModB b val) :=
  ⟨fun _ => ⟨.pixelHam 0 b, by simp [Instr.inSpace]⟩, fun _ => rfl⟩
theorem hamModR (b : Nat) (val : Byte) : Statement (.hamModR b val) :=
  ⟨fun _ => ⟨.pixelHam 0 b, by simp [Instr.inSpace]⟩, fun _ => rfl⟩
theorem unpackRaw : Statement (.unpackRaw) :=
  ⟨fun _ => ⟨.compSel, rfl⟩, fun _ => rfl⟩
theorem unpackRle : Statement (.unpackRle) :=
  ⟨fun _ => ⟨.compSel, rfl⟩, fun _ => rfl⟩
theorem unpackUnsupported (v : Byte) : Statement (.unpackUnsupported v) :=
  ⟨fun _ => ⟨.compSel, rfl⟩, fun _ => rfl⟩
theorem deint : Statement (.deint) :=
  ⟨nofun, fun ⟨sp, h⟩ => by cases sp <;> cases h⟩
theorem fixEhb : Statement (.fixEhb) :=
  ⟨fun _ => ⟨.fixSel, rfl⟩, fun _ => rfl⟩
theorem fixHamcull : Statement (.fixHamcull) :=
  ⟨fun _ => ⟨.fixSel, rfl⟩, fun _ => rfl⟩
theorem fixPass : Statement (.fixPass) :=
  ⟨fun _ => ⟨.fixSel, rfl⟩, fun _ => rfl⟩
theorem compDirect : Statement (.compDirect) :=
  ⟨fun _ => ⟨.compositorSel, rfl⟩, fun _ => rfl⟩
theorem compHam : Statement (.compHam) :=
  ⟨fun _ => ⟨.compositorSel, rfl⟩, fun _ => rfl⟩
theorem reset : Statement (.reset) :=
  ⟨nofun, fun ⟨sp, h⟩ => by cases sp <;> cases h⟩
theorem hdrLoad (w h : U16) (p c : Byte) : Statement (.hdrLoad w h p c) :=
  ⟨nofun, fun ⟨sp, h⟩ => by cases sp <;> cases h⟩
theorem modeLoad (m : U32) : Statement (.modeLoad m) :=
  ⟨nofun, fun ⟨sp, h⟩ => by cases sp <;> cases h⟩
theorem palClear : Statement (.palClear) :=
  ⟨nofun, fun ⟨sp, h⟩ => by cases sp <;> cases h⟩
theorem palPush (r g b : Byte) : Statement (.palPush r g b) :=
  ⟨nofun, fun ⟨sp, h⟩ => by cases sp <;> cases h⟩
theorem srcClear : Statement (.srcClear) :=
  ⟨nofun, fun ⟨sp, h⟩ => by cases sp <;> cases h⟩
theorem srcPush (v : Byte) : Statement (.srcPush v) :=
  ⟨nofun, fun ⟨sp, h⟩ => by cases sp <;> cases h⟩
theorem start : Statement (.start) :=
  ⟨nofun, fun ⟨sp, h⟩ => by cases sp <;> cases h⟩
theorem regRead (n : Nat) : Statement (.regRead n) :=
  ⟨nofun, fun ⟨sp, h⟩ => by cases sp <;> cases h⟩
theorem fbRead (k : Nat) : Statement (.fbRead k) :=
  ⟨nofun, fun ⟨sp, h⟩ => by cases sp <;> cases h⟩

end Sys2Proof.Laws.HasPattern
end

