-- ==== Sys2Proof/Laws/Width.lean ====
section
/-!
SUPPORT. The loop of the address width, and that a table can be given for every function the parameters ABITS_FN and
HAM_CULL_SHIFT may be (spec/00_scope.md R6).
-/

namespace Sys2Proof.Machine

/-- Counting up from `b` stops at the first value that fails the test, if one is within reach. -/
theorem countUp_spec (test : Nat → Bool) (fuel b : Nat) (h : ∃ k, b ≤ k ∧ k < b + fuel ∧ test k = false) :
    test (countUp test fuel b) = false ∧ b ≤ countUp test fuel b ∧
      ∀ j, b ≤ j → j < countUp test fuel b → test j = true := by
  induction fuel generalizing b with
  | zero => obtain ⟨k, h1, h2, -⟩ := h; omega
  | succ n ih =>
    unfold countUp
    split
    · rename_i g
      obtain ⟨k, h1, h2, h3⟩ := h
      have hk : k ≠ b := fun e => by rw [e, g] at h3; cases h3
      obtain ⟨e1, e2, e3⟩ := ih (b + 1) ⟨k, by omega, by omega, h3⟩
      exact ⟨e1, by omega, fun j hj hj' => if hb : j = b then hb ▸ g else e3 j (by omega) hj'⟩
    · rename_i g
      exact ⟨by simpa using g, Nat.le_refl b, fun j hj hj' => absurd hj' (by omega)⟩

/-- For every function and every bound on the count there is a value of ABITS_FN that computes it up to the bound. -/
theorem abits_table (f : Nat → Nat) (top : Nat) :
    ∃ form, ∀ n ≤ top, abits form n = f n :=
  ⟨.table ((List.range (top + 1)).map f), fun n h => by simp [abits, Nat.lt_succ_of_le h]⟩

/-- Looking up a key in a table made of a list of keys. -/
theorem lookup_map {α β : Type} [BEq α] [LawfulBEq α] (f : α → β) (keys : List α) {a : α} (h : a ∈ keys) :
    (keys.map (fun k => (k, f k))).lookup a = some (f a) := by
  induction keys with
  | nil => cases h
  | cons k ks ih =>
    by_cases e : a = k
    · simp [e]
    · have hk : (a == k) = false := by simpa using e
      simp [List.lookup_cons, hk, ih (by simpa [e] using h)]

/-- For every function and all bounds on its arguments there is a value of HAM_CULL_SHIFT that computes it within them. -/
theorem cullShift_table (f : Nat → Nat → Int) (top topPlanes : Nat) :
    ∃ form, ∀ b ≤ top, ∀ np ≤ topPlanes, cullShift form b np = f b np := by
  refine ⟨.table (((List.range (top + 1)) ×ˢ (List.range (topPlanes + 1))).map (fun k => (k, f k.1 k.2))),
    fun b hb np hnp => ?_⟩
  have hm : (b, np) ∈ (List.range (top + 1)) ×ˢ (List.range (topPlanes + 1)) := by simp; omega
  simp only [cullShift, lookup_map (fun k => f k.1 k.2) _ hm, Option.getD_some]

end Sys2Proof.Machine
end

