-- ==== Sys2Proof/Tests/Slice0.lean ====
section
/-!
SUPPORT. The model's own tests: what WellFormed refuses, words of the spec's encodings decoded, one or two single steps
an instruction with results from the spec (its rules' examples, and spec/95_test_vectors.md), and a witness for the
hypotheses of every statement.
-/

namespace Sys2Proof.Machine

/-! ### Helpers -/

/-- The next state has a property. -/
def Then (o : Host.Outcome State Fault Refusal) (p : State → Bool) : Bool :=
  match o with
  | .next t => p t
  | .fault _ | .refused _ => false

/-- A list of elements as a memory, from index 0. -/
def listed {α : Type} : Nat → List α → List (Nat × α)
  | _, [] => []
  | k, v :: vs => (k, v) :: listed (k + 1) vs

/-- The black and the white of the document's example (S8). -/
def twoColours : List (Nat × Rgba) := listed 0 [⟨0, 0, 0, 255⟩, ⟨255, 255, 255, 255⟩]

/-- The end-to-end example S8, loaded and idle: 8 by 1, one plane, raw, two colours, span C0. -/
def loaded : State :=
  { State.reset with
    width := 8, height := 1, nplanes := 1, hdrValid := true
    pal := twoColours, palCount := 2, src := [(0, 0xC0)], srcLen := 1 }

/-- The example's decode running, at a unit. -/
def running (st : Stage) : State := { loaded with phase := .busy, stage := st }

/-- A stream of bytes being unpacked into a plane buffer of 4 bytes, its first control byte fetched. -/
def unpacking (bytes : List Byte) : State :=
  { State.reset with
    width := 32, height := 1, nplanes := 1, comp := 1, hdrValid := true, phase := .busy, stage := .rle
    src := listed 0 bytes, srcLen := bytes.length, srcPc := 1 }

/-- The example's decode at DEINT, its one body byte unpacked. -/
def atDeint : State := { running .deint with pb := [(0, 0xC0)], pbFill := 1, srcPc := 1 }

/-- A palette being fixed: `count` entries loaded of which `entries` are listed. -/
def fixing (entries : List Rgba) (count : Nat) (planes : Byte) : State :=
  { State.reset with
    phase := .busy, hdrValid := true, stage := .fix
    pal := listed 0 entries, palCount := count, nplanes := planes }

/-- The example's decode in the pixel loop, before pixel `k`. -/
def atPixel (k : Nat) : State :=
  { running .pixels with
    cb := listed 0 [1, 1, 0, 0, 0, 0, 0, 0], wpal := twoColours, wpalCount := 2, pix := k
    fb := listed 0 (List.replicate k ⟨255, 255, 255, 255⟩), pb := [(0, 0xC0)], pbFill := 1, srcPc := 1 }

/-- A HAM row, 16 colours, PREV as in the examples of R176 to R178. -/
def hamRow : State :=
  { atPixel 0 with mode := 0x800, wpal := [(3, ⟨10, 20, 30, 255⟩)], wpalCount := 16, prev := ⟨10, 20, 30, 255⟩ }

/-- The decoded example. -/
def decoded : State :=
  { atPixel 8 with
    phase := .done
    fb := listed 0 (List.replicate 2 ⟨255, 255, 255, 255⟩ ++ List.replicate 6 ⟨0, 0, 0, 255⟩) }

/-! ### What WellFormed refuses -/

theorem test_wf_rep_zero : (Instr.rep 0).wellFormed = false := by decide
theorem test_wf_rep_one : (Instr.rep 1).wellFormed = true := by decide
theorem test_wf_modg_width : (Instr.hamModG 9 false 0).wellFormed = false := by decide
theorem test_wf_modg_value : (Instr.hamModG 3 false 8).wellFormed = false := by decide
theorem test_wf_modg_control : (Instr.hamModG 7 true 0).wellFormed = false := by decide
theorem test_wf_modb_width : (Instr.hamModB 9 0).wellFormed = false := by decide
theorem test_wf_modb_value : (Instr.hamModB 4 16).wellFormed = false := by decide
theorem test_wf_modb_control : (Instr.hamModB 8 0).wellFormed = false := by decide
theorem test_wf_modr_width : (Instr.hamModR 9 0).wellFormed = false := by decide
theorem test_wf_modr_value : (Instr.hamModR 0 1).wellFormed = false := by decide
theorem test_wf_modr_control : (Instr.hamModR 7 0).wellFormed = false := by decide
theorem test_wf_mod_largest : (Instr.hamModB 7 127).wellFormed = true := by decide
theorem test_wf_unsupported_none : (Instr.unpackUnsupported 0).wellFormed = false := by decide
theorem test_wf_unsupported_rle : (Instr.unpackUnsupported 1).wellFormed = false := by decide
theorem test_wf_unsupported_vrle : (Instr.unpackUnsupported Const.compVrle).wellFormed = true := by decide

/-! ### Words of the spec's encodings, written out bit by bit -/

/-- Format L, `0nnnnnnn` (R81): the document's `[0x02, ...]`, a run of 3 (R82). -/
theorem test_decode_lit : decode .rle (.byte 0b00000010) = .ok (.lit 2) ∧ litCount 2 = 3 := by decide
/-- Format R, `1nnnnnnn` (R81): the document's `[0xFE, 0x11]`, 3 copies; 0x81 is 128 copies (R82, R5). -/
theorem test_decode_rep : decode .rle (.byte 0b11111110) = .ok (.rep 126) ∧ repCount 126 = 3 ∧ repCount 1 = 128 := by
  decide
theorem test_rep_min : ((0x81 : Byte).toInt = Const.rleRepMin) ∧ (Const.rleReserved.toInt = -128) := by decide
/-- Format X (R81). -/
theorem test_decode_rsvd : decode .rle (.byte 0b10000000) = .ok .rsvd := by decide
/-- Format P0 in direct mode (R85). -/
theorem test_decode_idx : decode .pixelDirect (.byte 0b00000101) = .ok (.idx 5) := by decide
/-- Format P0 in HAM mode, below WPAL_COUNT (R86, R174). -/
theorem test_decode_hamSet : decode (.pixelHam 16 4) (.byte 0b00000011) = .ok (.hamSet 3) := by decide
/-- Format PM(4): CTL 1 in bits 5:4, VAL 15 (R176: the code is 0x1F). -/
theorem test_decode_hamModB : decode (.pixelHam 16 4) (.byte 0b00011111) = .ok (.hamModB 4 15) := by decide
/-- Format PM(4): CTL 2, VAL 10 (R177: code 0x2A). -/
theorem test_decode_hamModR : decode (.pixelHam 16 4) (.byte 0b00101010) = .ok (.hamModR 4 10) := by decide
/-- Format PM(4), CTL 3, VAL 5 (R178: code 0x35), and PM(3), CTL 0, VAL 6 (R178: n = 5, code 6). -/
theorem test_decode_hamModG : decode (.pixelHam 16 4) (.byte 0b00110101) = .ok (.hamModG 4 true 5) ∧
    decode (.pixelHam 5 3) (.byte 0b00000110) = .ok (.hamModG 3 false 6) := by decide
/-- At width 0 the control field is bits 1:0 and the value is empty (R182). -/
theorem test_decode_width_zero : decode (.pixelHam 1 0) (.byte 0b00000010) = .ok (.hamModR 0 0) := by decide
theorem test_decode_above_8 : decode (.pixelHam 0 9) (.byte 0) = .error .widthAbove8 := by decide
/-- The COMP register (R90). -/
theorem test_decode_compSel : decode .compSel (.byte 0b00000000) = .ok .unpackRaw ∧
    decode .compSel (.byte 0b00000001) = .ok .unpackRle ∧
    decode .compSel (.byte 0b00000010) = .ok (.unpackUnsupported 2) := by decide
/-- The MODE register for FIX: bit 7 first, then bit 11 (R89, C1). -/
theorem test_decode_fixSel : decode .fixSel (.mode 0x00000080) = .ok .fixEhb ∧
    decode .fixSel (.mode 0x00000880) = .ok .fixEhb ∧ decode .fixSel (.mode 0x00000800) = .ok .fixHamcull ∧
    decode .fixSel (.mode 0xFFFFF77F) = .ok .fixPass := by decide
/-- The MODE register for COMP: bit 11 (R89). -/
theorem test_decode_compositorSel : decode .compositorSel (.mode 0x00000880) = .ok .compHam ∧
    decode .compositorSel (.mode 0x00000080) = .ok .compDirect := by decide
/-- The host's numbering of a table word: the first byte decides, the operand bytes follow it. -/
theorem test_table_words : decodeTableWord 8 0x80 = some .rsvd ∧ decodeTableWord 16 0x11FE = some (.rep 126) ∧
    decodeTableWord 32 0x800 = some .fixHamcull ∧ decodeTableWord 4 0 = none := by decide
/-- The assembler's lines (R95). -/
theorem test_assemble : assemble [.lit [0xAA, 0xBB, 0xCC], .rep 3 0x11, .rsvd, .byte 7] =
    some [0x02, 0xAA, 0xBB, 0xCC, 0xFE, 0x11, 0x80, 0x07] ∧ assemble [.rep 1 0] = none := by decide

/-! ### UNPACK -/

/-- S2 of the document: `[0x02, 0xAA, 0xBB, 0xCC]` gives `[0xAA, 0xBB, 0xCC]` (R134). -/
theorem test_lit_copies : Then (exec (.lit 2) (unpacking [0x02, 0xAA, 0xBB, 0xCC])) (fun t =>
    t.pb = listed 0 [0xAA, 0xBB, 0xCC] ∧ t.pbFill = 3 ∧ t.srcPc = 4 ∧ t.err = 0) = true := by decide
/-- The span ends inside the run: MalformedChunk with SRC_LEN, the copied byte stays (R134 c). -/
theorem test_lit_cut_by_span : Then (exec (.lit 2) (unpacking [0x02, 0xAA])) (fun t =>
    t.pb = listed 0 [0xAA] ∧ t.err = 4 ∧ t.errInfo = 2 ∧ t.phase = .fault) = true := by decide
/-- `[0xFE, 0x11]` gives three copies (R135). -/
theorem test_rep_writes : Then (exec (.rep 126) (unpacking [0xFE, 0x11])) (fun t =>
    t.pb = listed 0 [0x11, 0x11, 0x11] ∧ t.pbFill = 3 ∧ t.srcPc = 2) = true := by decide
/-- Three copies into a buffer of 2 bytes: clipped, no fault (R135 a). -/
theorem test_rep_clipped : Then (exec (.rep 126) { unpacking [0xFE, 0x22] with width := 16 }) (fun t =>
    t.pb = listed 0 [0x22, 0x22] ∧ t.pbFill = 2 ∧ t.srcPc = 2 ∧ t.err = 0) = true := by decide
/-- SRC = 80: ReservedOpcode, ERR_INFO 0, SRC_PC 1 (R136). -/
theorem test_rsvd : Then (exec .rsvd (unpacking [0x80])) (fun t => t.err = 3 ∧ t.errInfo = 0 ∧ t.srcPc = 1) = true := by
  decide
/-- The document's body byte (R137): PB[0] = C0, PB_FILL 1, SRC_PC 1. -/
theorem test_unpackRaw : Then (exec .unpackRaw (running .unpack)) (fun t =>
    t.pb = [(0, 0xC0)] ∧ t.pbFill = 1 ∧ t.srcPc = 1 ∧ t.stage = .deint) = true := by decide
theorem test_unpackRle : Then (exec .unpackRle (running .unpack)) (fun t => t = running .rle) = true := by decide
/-- Vertical-RLE: ERR 2, ERR_INFO 2 (R223). -/
theorem test_unpackUnsupported : Then (exec (.unpackUnsupported 2) loaded) (fun t => t.err = 2 ∧ t.errInfo = 2) = true := by
  decide

/-! ### DEINT -/

/-- The document's vector (R151): plane bytes 80 00, width 16. -/
theorem test_deint_msb_first : Then (exec .deint { atDeint with width := 16, pb := listed 0 [0x80, 0x00], pbFill := 2 })
    (fun t => t.cb = listed 0 [1, 0, 0, 0, 0, 0, 0, 0, 0, 0, 0, 0, 0, 0, 0, 0]) = true := by decide
/-- The needed byte 1 of a 9-column row is missing: PlaneUnderrun(1) (R153). -/
theorem test_deint_underrun : Then (exec .deint { atDeint with width := 9 })
    (fun t => t.err = 5 ∧ t.errInfo = 1 ∧ t.phase = .fault) = true := by decide

/-! ### FIX -/

/-- F1: halving floors, alpha is forced to 255 (R161). -/
theorem test_fixEhb_doubles : Then (exec .fixEhb (fixing [⟨255, 1, 0, 255⟩, ⟨128, 129, 2, 255⟩] 2 5)) (fun t =>
    t.wpalCount = 4 ∧
      t.wpal = listed 0 [⟨255, 1, 0, 255⟩, ⟨128, 129, 2, 255⟩, ⟨127, 0, 0, 255⟩, ⟨64, 64, 1, 255⟩]) = true := by decide
/-- F3 and F4: 32 is doubled, 33 is not. -/
theorem test_fixEhb_boundary : Then (exec .fixEhb (fixing [] 32 6)) (fun t => t.wpalCount = 64) = true ∧
    Then (exec .fixEhb (fixing [] 33 6)) (fun t => t.wpalCount = 33) = true := by decide
/-- F11: 128 colours with 6 planes keep 16 (R162). -/
theorem test_fixHamcull_cuts : Then (exec .fixHamcull (fixing [] 128 6)) (fun t => t.wpalCount = 16 ∧ t.wpalBits = 4) = true := by
  decide
/-- F17: a negative shift faults ConfigRange(6). -/
theorem test_fixHamcull_negative : Then (exec .fixHamcull (fixing [] 32 3)) (fun t => t.err = 7 ∧ t.errInfo = 6) = true := by
  decide
/-- F7: the palette passes through (R163). -/
theorem test_fixPass : Then (exec .fixPass (running .fix)) (fun t => t.wpal = twoColours ∧ t.wpalCount = 2 ∧ t.stage = .comp) = true := by
  decide

/-! ### COMP -/

theorem test_compDirect : Then (exec .compDirect (running .comp)) (fun t => t.stage = .pixels ∧ t.pix = 0) = true := by decide
/-- 257 colours need 9 bits: ConfigRange(7) (R179); 16 need 4. -/
theorem test_compHam_guard : Then (exec .compHam { running .comp with wpalCount := 257 }) (fun t => t.err = 7 ∧ t.errInfo = 7) = true ∧
    Then (exec .compHam { running .comp with wpalCount := 16 }) (fun t => t.stage = .pixels ∧ t.pix = 0 ∧ t.err = 0) = true := by
  decide
/-- The first pixel of S8 is white. -/
theorem test_idx : Then (exec (.idx 1) (atPixel 0)) (fun t => t.fb = [(0, ⟨255, 255, 255, 255⟩)] ∧ t.pix = 1) = true := by decide
/-- A code the palette does not have: PaletteRange at that pixel (R171). -/
theorem test_idx_range : Then (exec (.idx 2) (atPixel 1)) (fun t => t.err = 6 ∧ t.errInfo = 1) = true := by decide
/-- R174: WPAL[3] = (10,20,30,255) is the pixel and PREV. -/
theorem test_hamSet : Then (exec (.hamSet 3) { hamRow with prev := ⟨0, 0, 0, 255⟩ }) (fun t =>
    memRead t.fb 0 = some ⟨10, 20, 30, 255⟩ ∧ t.prev = ⟨10, 20, 30, 255⟩) = true := by decide
/-- The document's vector (R176): code 0x1F after (10,20,30,255) gives (10,20,240,255). -/
theorem test_hamModB : Then (exec (.hamModB 4 15) hamRow) (fun t => t.prev = ⟨10, 20, 240, 255⟩) = true := by decide
/-- R177: code 0x2A gives (160,20,30,255). -/
theorem test_hamModR : Then (exec (.hamModR 4 10) hamRow) (fun t => memRead t.fb 0 = some ⟨160, 20, 30, 255⟩) = true := by decide
/-- R178: code 0x35 gives (10,80,30,255), and the control-0 code 6 at width 3 green 192. -/
theorem test_hamModG : Then (exec (.hamModG 4 true 5) hamRow) (fun t => t.prev = ⟨10, 80, 30, 255⟩) = true ∧
    Then (exec (.hamModG 3 false 6) hamRow) (fun t => t.prev = ⟨10, 192, 30, 255⟩) = true := by decide

/-! ### Host commands -/

/-- R111's example: RESET after a fault. -/
theorem test_reset : Then (exec .reset (loaded.raise .reservedOpcode 5)) (fun t =>
    t.phase = .idle ∧ t.err = 0 ∧ t.palCount = 0 ∧ t.srcLen = 0 ∧ t.hdrValid = false) = true := by decide
/-- R112's example: 320, 200, 5, 1 gives PITCH 40, PB_SIZE 40000, NPIX 64000. -/
theorem test_hdrLoad : Then (exec (.hdrLoad 320 200 5 1) State.reset) (fun t =>
    t.pitch = 40 ∧ t.pbSize = 40000 ∧ t.npix = 64000 ∧ t.comp = 1 ∧ t.hdrValid = true) = true := by decide
/-- R113's examples. -/
theorem test_modeLoad : Then (exec (.modeLoad 0x00000800) State.reset) (fun t => t.ham = true ∧ t.ehb = false) = true ∧
    Then (exec (.modeLoad 0x00011080) State.reset) (fun t => t.ham = false ∧ t.ehb = true) = true := by decide
theorem test_palClear : Then (exec .palClear { loaded with palOvf := true }) (fun t => t.palCount = 0 ∧ t.palOvf = false) = true := by
  decide
/-- R115's example. -/
theorem test_palPush : Then (exec (.palPush 255 255 255) State.reset) (fun t =>
    t.pal = [(0, ⟨255, 255, 255, 255⟩)] ∧ t.palCount = 1) = true := by decide
/-- PAL full: the entry is discarded (R115). -/
theorem test_palPush_full : Then (exec (.palPush 1 2 3) { loaded with palCount := 256 }) (fun t =>
    t.palOvf = true ∧ t.palCount = 256 ∧ t.pal = twoColours) = true := by decide
theorem test_srcClear : Then (exec .srcClear { loaded with srcLen := 4, srcOvf := true }) (fun t => t.srcLen = 0 ∧ t.srcOvf = false) = true := by
  decide
theorem test_srcPush : Then (exec (.srcPush 0x11) loaded) (fun t => t.src = listed 0 [0xC0, 0x11] ∧ t.srcLen = 2) = true := by decide
/-- R118's example: START alone after RESET is MissingDependency. -/
theorem test_start_no_header : Then (exec .start State.reset) (fun t => t.phase = .fault ∧ t.err = 1 ∧ t.errInfo = 0) = true := by
  decide
theorem test_start_launches : Then (exec .start loaded) (fun t => t = running .unpack) = true := by decide
/-- After S8, `REG_READ 5` returns 0x06; number 13 is no register (R120). -/
theorem test_regRead : Then (exec (.regRead 5) decoded) (fun t => t.reply = some (.reg 0x06) ∧ t.cmdErr = false) = true ∧
    Then (exec (.regRead 13) decoded) (fun t => t.reply = some (.reg 0) ∧ t.cmdErr = true) = true := by decide
/-- S8: FB_READ 0 is white, FB_READ 7 black, FB_READ 8 is refused (R121). -/
theorem test_fbRead : Then (exec (.fbRead 0) decoded) (fun t => t.reply = some (.pixel ⟨255, 255, 255, 255⟩)) = true ∧
    Then (exec (.fbRead 7) decoded) (fun t => t.reply = some (.pixel ⟨0, 0, 0, 255⟩)) = true ∧
    Then (exec (.fbRead 8) decoded) (fun t => t.reply = some (.pixel ⟨0, 0, 0, 0⟩) ∧ t.cmdErr = true) = true := by decide

/-! ### The step -/

/-- A step fetches `02`, moves SRC_PC past it and runs LIT (R133). -/
theorem test_step_fetches : Then (step { unpacking [0x02, 0xAA, 0xBB, 0xCC] with srcPc := 0 }) (fun t =>
    t.pbFill = 3 ∧ t.srcPc = 4) = true := by decide
/-- The first pixel of the second row starts from ROW_START (R172): a blue code gives (0,0,240,255). -/
theorem test_step_row_start : Then (step { hamRow with width := 1, height := 2, pix := 1, cb := listed 0 [3, 0x1F] })
    (fun t => memRead t.fb 1 = some ⟨0, 0, 240, 255⟩) = true := by decide
/-- RESET arrives in the middle of a decode (R250); a command further off only comes nearer. -/
theorem test_step_command : Then (step { atPixel 3 with inbox := [⟨0, .reset⟩] }) (fun t => t = State.reset) = true ∧
    Then (step { atPixel 0 with inbox := [⟨1, .reset⟩] }) (fun t => t.pix = 1 ∧ t.inbox = [⟨0, .reset⟩]) = true := by
  decide
/-- The placed words run as the very next step. -/
theorem test_withFetchWord : Then (step (State.reset.withFetchWord 16 0x11FE)) (fun t => t.pbFill = 3 ∧ t.srcPc = 2) = true ∧
    Then (step (State.reset.withFetchWord 32 0x80)) (fun t => t.stage = .comp) = true := by decide

/-! ### The host's side -/

/-- A session of the host on a fresh block ends, and its result and the block have a property. -/
def SessionThen (file : List Byte) (p : HostResult → State → Bool) : Bool :=
  match runSession .default file State.reset with
  | .next (r, t) => p r t
  | .fault _ | .refused _ => false

/-- S8: the container gives the eight commands of its table, its framing and its chunk list. -/
theorem test_container : (hostDecode .default exampleContainer).commands =
      [.reset, .hdrLoad 8 1 1 0, .palClear, .palPush 0 0 0, .palPush 255 255 255, .srcClear, .srcPush 0xC0, .start] ∧
    (hostDecode .default exampleContainer).container = some ⟨[0x49, 0x4C, 0x42, 0x4D], 56⟩ ∧
    (hostDecode .default exampleContainer).chunks.map Chunk.skipped = [false, false, false] := by
  decide
/-- R212: two white pixels, six black ones. -/
theorem test_session : SessionThen exampleContainer (fun r t =>
    r.image = some exampleImage ∧ r.error = none ∧ t.phase = .done) = true := by decide
theorem test_exampleImage : exampleImage.pixels =
    List.replicate 2 ⟨255, 255, 255, 255⟩ ++ List.replicate 6 ⟨0, 0, 0, 255⟩ := by decide
/-- Pixel data without a header: the one error is MissingDependency, ERR 1, ERR_INFO 0 (R206, R208). -/
theorem test_session_error : SessionThen (exampleContainer.take 12 ++ exampleContainer.drop 54) (fun r _ =>
    r.image = none ∧ r.error = some (.block 1 0)) = true := by decide
/-- A file without the magic is no container: no command (R193). -/
theorem test_not_a_container : (hostDecode .default (0 :: exampleContainer.tail)).commands = [] ∧
    (hostDecode .default (0 :: exampleContainer.tail)).verdict = .notAContainer := by decide
/-- A second header after the pixel data is neither sent nor kept (R210, log entry 21). -/
theorem test_header_after_body : (hostDecode .default (exampleContainer ++ (exampleContainer.drop 12).take 28)).commands =
      (hostDecode .default exampleContainer).commands ∧
    (hostDecode .default (exampleContainer ++ (exampleContainer.drop 12).take 28)).header =
      (hostDecode .default exampleContainer).header := by decide

/-! ### Witnesses: states and operands that meet the hypotheses of the statements -/

theorem witness_HdrLoadReplacesTheHeader : loaded.phase = .idle := by decide
theorem witness_ModeLoadWritesMode : State.reset.phase = .idle := by decide
/-- The last free entry of PAL, and PAL full. -/
theorem witness_PaletteCommandsAppendAndClear : loaded.phase = .idle ∧
    { loaded with palCount := 255 }.palCount < loaded.cfg.palDepth ∧
    loaded.cfg.palDepth ≤ { loaded with palCount := 256 }.palCount := by decide
/-- The last free byte of SRC, and SRC full. -/
theorem witness_SpanCommandsAppendAndClear : loaded.phase = .idle ∧
    { loaded with srcLen := 4294967294 }.srcLen < loaded.cfg.srcDepth ∧
    loaded.cfg.srcDepth ≤ { loaded with srcLen := 4294967295 }.srcLen := by decide
theorem witness_DroppedCommandsOnlySetCmdErr : (running .deint).phase ≠ .idle ∧ decoded.phase ≠ .idle ∧
    (loaded.raise .configRange 1).phase ≠ .idle := by decide
/-- Each test of R118 failing first, at its boundary. -/
theorem witness_StartTestsInOrder : loaded.phase = .idle ∧ State.reset.hdrValid = false ∧ loaded.hdrValid = true ∧
    ({ loaded with comp := 2 }.comp ≠ 0 ∧ { loaded with comp := 2 }.comp ≠ 1) ∧ loaded.comp = 0 ∧
    loaded.cfg.maxPlanes < { loaded with nplanes := 9 }.nplanes.toNat ∧
    { loaded with nplanes := 8 }.nplanes.toNat ≤ loaded.cfg.maxPlanes ∧
    { loaded with palOvf := true }.palOvf = true ∧ loaded.palOvf = false ∧
    { loaded with srcOvf := true }.srcOvf = true ∧ loaded.srcOvf = false ∧
    { loaded with cfg := { Params.default with pbDepth := 1 } }.cfg.pbDepth < loaded.pbSize ∧
    loaded.pbSize ≤ { loaded with cfg := { Params.default with pbDepth := 2 } }.cfg.pbDepth ∧
    { loaded with cfg := { Params.default with pixDepth := 7 } }.cfg.pixDepth < loaded.npix := by decide
theorem witness_AcceptedStartLaunchesTheDecode : loaded.phase = .idle ∧ loaded.hdrValid = true ∧
    (loaded.comp = 0 ∨ loaded.comp = 1) ∧ loaded.nplanes.toNat ≤ loaded.cfg.maxPlanes ∧ loaded.palOvf = false ∧
    loaded.srcOvf = false ∧ loaded.pbSize ≤ loaded.cfg.pbDepth ∧ loaded.npix ≤ loaded.cfg.pixDepth := by decide
theorem witness_RegReadReturnsTheRegister : (decoded.phase ≠ .busy) ∧
    ((running .deint).phase = .busy ∧ 8 ≠ 9 ∧ 8 ≠ 11 ∧ 8 ≠ 12) ∧ 13 > 12 := by decide
theorem witness_OpenRegistersReadInRangeWhileBusy : (running .deint).phase = .busy := by decide
/-- The last pixel, the first index beyond it, and a phase with no image. -/
theorem witness_FbReadReturnsThePixelOrRefuses : (decoded.phase = .done ∧ 7 < decoded.npix ∧
    memRead decoded.fb 7 = some ⟨0, 0, 0, 255⟩) ∧ decoded.npix ≤ 8 ∧
    loaded.phase ≠ .done := by decide
theorem witness_RaiseRecordsTheFaultAndNothingElse : loaded.due = none ∧ (atPixel 0).due = none := by decide

/-- A reserved byte about to be fetched. -/
def beforeReserved : State := { unpacking [0x80] with srcPc := 0 }

theorem witness_ReservedByteFaultsAtItsIndex : beforeReserved.runs [.rle] ∧
    beforeReserved.pbFill < beforeReserved.pbSize ∧ beforeReserved.srcPc < beforeReserved.srcLen ∧
    memRead beforeReserved.src beforeReserved.srcPc = some 0x80 := by decide
theorem witness_UnsupportedCompressionFaults : { loaded with comp := 2 }.phase = .idle ∧
    { loaded with comp := 2 }.hdrValid = true ∧ { loaded with comp := 2 }.comp ≠ 0 ∧
    { loaded with comp := 2 }.comp ≠ 1 := by decide
theorem witness_LoopUnitsEnterTheirLoops : { running .comp with wpalCount := 256 }.wpalBits ≤ 8 ∧
    8 < { running .comp with wpalCount := 257 }.wpalBits := by decide
/-- A whole run, a run cut by the output (2 bytes), a run cut by the span. -/
theorem witness_LitCopiesTheRunOrIsCut :
    (let s := unpacking [0x02, 0xAA, 0xBB, 0xCC];
      3 = min ((2 : BitVec 7).toNat + 1) (min (s.pbSize - s.pbFill) (s.srcLen - s.srcPc)) ∧
        (∀ j < 3, (memRead s.src (s.srcPc + j)).isSome = true) ∧ 3 = (2 : BitVec 7).toNat + 1) ∧
    (let s := { unpacking [0x02, 0xAA, 0xBB, 0xCC] with width := 16 };
      2 = min ((2 : BitVec 7).toNat + 1) (min (s.pbSize - s.pbFill) (s.srcLen - s.srcPc)) ∧
        (∀ j < 2, (memRead s.src (s.srcPc + j)).isSome = true) ∧ s.pbSize ≤ s.pbFill + 2) ∧
    (let s := unpacking [0x02, 0xAA];
      1 = min ((2 : BitVec 7).toNat + 1) (min (s.pbSize - s.pbFill) (s.srcLen - s.srcPc)) ∧
        (∀ j < 1, (memRead s.src (s.srcPc + j)).isSome = true) ∧ 1 < (2 : BitVec 7).toNat + 1 ∧
        s.pbFill + 1 < s.pbSize) := by decide
theorem witness_RepWritesTheRunOrIsCut :
    (unpacking [0xFE]).srcLen ≤ (unpacking [0xFE]).srcPc ∧
    (let s := unpacking [0xFE, 0x11];
      s.srcPc < s.srcLen ∧ memRead s.src s.srcPc = some 0x11 ∧
        3 = min (257 - (128 + (126 : BitVec 7).toNat)) (s.pbSize - s.pbFill)) ∧
    (let s := { unpacking [0xFE, 0x11] with width := 16 };
      s.srcPc < s.srcLen ∧ memRead s.src s.srcPc = some 0x11 ∧
        2 = min (257 - (128 + (126 : BitVec 7).toNat)) (s.pbSize - s.pbFill)) := by decide
theorem witness_RawCopiesTheSpan : 1 = min (running .unpack).srcLen (running .unpack).pbSize ∧
    memFilled (running .unpack).src 1 = true := by decide

/-- The bytes of the program LIT 7; REP 3, 9, about to be unpacked. -/
def assembled : State := { unpacking [0x00, 7, 0xFE, 9] with srcPc := 0 }

theorem witness_AssembledProgramUnpacksToItsOutput :
    assemble [.lit [7], .rep 3 9] = some [0x00, 7, 0xFE, 9] ∧
    programOutput [.lit [7], .rep 3 9] = some [7, 9, 9, 9] ∧ assembled.phase = .busy ∧ assembled.stage = .rle ∧
    assembled.inbox = [] ∧ assembled.srcPc = 0 ∧ assembled.pbFill = 0 ∧ assembled.srcLen = 4 ∧ assembled.pbSize = 4 ∧
    ∀ a < 4, memRead assembled.src a = [0x00, 7, 0xFE, 9][a]? := by decide

/-- The one body byte of S8 is all that the image needs. -/
theorem atDeint_bodyLongEnough : atDeint.bodyLongEnough := by
  intro y p i h
  have hy : y < 1 := h.1
  have hp : p < 1 := h.2.1
  have hi : i < 1 := h.2.2
  obtain rfl : y = 0 := by omega
  obtain rfl : p = 0 := by omega
  obtain rfl : i = 0 := by omega
  decide

/-- A body that is long enough, and a short one under the policy `zero`. -/
theorem witness_DeintComputesThePixelCodes :
    (memFilled atDeint.pb atDeint.pbFill = true ∧ atDeint.bodyLongEnough) ∧
    (let s := { atDeint with width := 9, cfg := { Params.default with shortBody := .zero } };
      memFilled s.pb s.pbFill = true ∧ s.cfg.shortBody = .zero) :=
  ⟨⟨by decide, atDeint_bodyLongEnough⟩, by decide⟩

/-- A row of 9 columns whose second byte is missing. -/
def shortBody : State := { atDeint with width := 9 }

theorem witness_DeintFaultsAtTheFirstMissingByte : memFilled shortBody.pb shortBody.pbFill = true ∧
    shortBody.cfg.shortBody = .fault ∧ shortBody.needs 0 0 1 ∧ shortBody.pbFill ≤ shortBody.pbOff 0 0 1 ∧
    ∀ y p i, shortBody.needs y p i → shortBody.pbOff y p i < shortBody.pbOff 0 0 1 →
      shortBody.pbOff y p i < shortBody.pbFill :=
  ⟨by decide, by decide, by decide, by decide, fun _ _ _ _ h => h⟩
/-- A later byte of a row, a later plane and a later scanline, in a geometry of 2 planes and PITCH 2. -/
theorem witness_PlaneOffsetsAreOrderedAndDense :
    let s := { loaded with nplanes := 2, height := 2 }
    0 < s.nplanes.toNat ∧ 1 < s.nplanes.toNat ∧ 0 < s.pitch ∧ 1 < s.pitch ∧ 7 < s.pbSize := by decide
/-- F3 and F4: 32 entries and 33. -/
theorem witness_FixEhbDoublesSmallPalettes : (fixing [] 32 6).palCount ≤ 32 ∧ 32 < (fixing [] 33 6).palCount := by decide
/-- F8, F11, F17 of spec/95_test_vectors.md. -/
theorem witness_FixHamcullKeepsTheFirstEntries :
    (4 = abits .below (fixing [] 16 6).palCount ∧ 4 ≤ (fixing [] 16 6).nplanes.toNat) ∧
    (7 = abits .below (fixing [] 128 6).palCount ∧ (fixing [] 128 6).nplanes.toNat < 7 ∧
      3 = cullShift .readingA 7 (fixing [] 128 6).nplanes.toNat) ∧
    (5 = abits .below (fixing [] 32 3).palCount ∧ (fixing [] 32 3).nplanes.toNat < 5 ∧
      -1 = cullShift .readingA 5 (fixing [] 32 3).nplanes.toNat) := by decide
theorem witness_AbitsIsTheSmallestWidth : 4 ≤ 2 ^ 2 ∧ 4 < 2 ^ 3 ∧ abits .below 4 = 2 ∧ abits .below 5 = 3 ∧
    abits .belowOrEqual 4 = 3 := by decide
theorem witness_IdxLooksUpOrFaults : (1 : Byte).toNat < (atPixel 0).wpalCount ∧
    (atPixel 0).wpalCount ≤ (2 : Byte).toNat ∧ (atPixel 7).runs [.pixels] ∧ (atPixel 7).ham = false ∧
    (atPixel 7).pix < (atPixel 7).npix ∧ memRead (atPixel 7).cb (atPixel 7).pix = some 0 ∧
    (atPixel 8).runs [.pixels] ∧ (atPixel 8).ham = false ∧ (atPixel 8).npix ≤ (atPixel 8).pix := by decide
/-- The document's vector, and the two ends of the range of widths. -/
theorem witness_ModifyCodesReplaceOneChannel :
    (4 ≤ 8 ∧ (0xF0 : Byte).toNat = (15 : Byte).toNat * 2 ^ (8 - 4) % 256) ∧
    (8 ≤ 8 ∧ (255 : Byte).toNat = (255 : Byte).toNat * 2 ^ (8 - 8) % 256) ∧
    (0 ≤ 8 ∧ (0 : Byte).toNat = (0 : Byte).toNat * 2 ^ (8 - 0) % 256) := by decide
theorem witness_ComponentValueFillsFromTheTop : (8 ≤ 8 ∧ (255 : Byte).toNat < 2 ^ 8) ∧ (0 ≤ 8 ∧ (0 : Byte).toNat < 2 ^ 0) := by
  decide

/-- The decoded example meets the invariant. -/
theorem decoded_inv : StateInv decoded :=
  ⟨by decide, by decide, by decide, by decide, by decide, by decide, by decide, by decide⟩

/-- The running example does, in the pixel loop, -/
theorem atPixel_inv : StateInv (atPixel 1) :=
  ⟨by decide, by decide, by decide, by decide, by decide, by decide, by decide, by decide⟩

/-- at UNPACK, -/
theorem running_inv : StateInv (running .unpack) :=
  ⟨by decide, by decide, by decide, by decide, by decide, by decide, by decide, by decide⟩

/-- and before START. -/
theorem loaded_inv : StateInv loaded :=
  ⟨by decide, by decide, by decide, by decide, by decide, by decide, by decide, by decide⟩

theorem witness_ReadPixelsAreOpaque : StateInv decoded ∧ decoded.phase = .done ∧ 7 < decoded.npix :=
  ⟨decoded_inv, by decide, by decide⟩
/-- A fetch, and the control bytes where the three formats meet. -/
theorem witness_StepRunsTheFetchedRleInstruction : assembled.runs [.rle] ∧ assembled.pbFill < assembled.pbSize ∧
    assembled.srcPc < assembled.srcLen ∧ memRead assembled.src assembled.srcPc = some 0x00 ∧
    (0x80 : Byte).toNat = 128 ∧ (0x7F : Byte).toNat < 128 ∧ 128 < (0x81 : Byte).toNat := by decide
/-- A modify code in HAM mode at the start of a row, an index in direct mode. -/
theorem witness_StepRunsThePixelCode :
    (let s := { hamRow with cb := listed 0 [0x1F] };
      s.runs [.pixels] ∧ s.pix < s.npix ∧ memRead s.cb s.pix = some 0x1F ∧
        decode (if s.ham then .pixelHam s.wpalCount s.wpalBits else .pixelDirect) (.byte 0x1F) = .ok (.hamModB 4 15) ∧
        (s.ham = true ∧ s.pix % s.width.toNat = 0)) ∧
    (let s := atPixel 1;
      s.runs [.pixels] ∧ s.pix < s.npix ∧ memRead s.cb s.pix = some 1 ∧
        decode (if s.ham then .pixelHam s.wpalCount s.wpalBits else .pixelDirect) (.byte 1) = .ok (.idx 1)) := by decide
theorem witness_StepRunsTheSelectedUnit : (running .unpack).phase = .busy ∧ (running .unpack).due = none ∧
    (running .unpack).stage = .unpack ∧ (running .deint).stage = .deint ∧ (running .fix).stage = .fix ∧
    (running .comp).stage = .comp := by decide
theorem witness_StepRunsTheArrivedCommand :
    { running .deint with inbox := [⟨0, .start⟩, ⟨0, .reset⟩] }.inbox = ⟨0, .start⟩ :: [⟨0, .reset⟩] ∧
    Instr.start.isHostCommand = true := by decide
/-- The output full, the span exhausted, the last pixel written, no decode running. -/
theorem witness_SequencerEndsUnitsAndWaits :
    (let s := { unpacking [0x02] with pbFill := 4 };
      s.due = none ∧ s.phase = .busy ∧ s.stage = .rle ∧ s.pbSize ≤ s.pbFill) ∧
    (let s := unpacking [0x02];
      s.due = none ∧ s.phase = .busy ∧ s.stage = .rle ∧ s.srcLen ≤ s.srcPc) ∧
    ((atPixel 8).due = none ∧ (atPixel 8).phase = .busy ∧ (atPixel 8).stage = .pixels ∧
      (atPixel 8).npix ≤ (atPixel 8).pix) ∧ (loaded.due = none ∧ loaded.phase ≠ .busy) := by decide
theorem witness_DecodeOfEncodeIsTheInstruction :
    ((Instr.lit 127).wellFormed = true ∧ (Instr.lit 127).inSpace .rle = true) ∧
    ((Instr.rep 1).wellFormed = true ∧ (Instr.rep 1).inSpace .rle = true) ∧
    ((Instr.hamSet 15).wellFormed = true ∧ (Instr.hamSet 15).inSpace (.pixelHam 16 4) = true) ∧
    ((Instr.hamModG 4 true 15).wellFormed = true ∧ (Instr.hamModG 4 true 15).inSpace (.pixelHam 16 4) = true) ∧
    ((Instr.hamModB 7 127).wellFormed = true ∧ (Instr.hamModB 7 127).inSpace (.pixelHam 128 7) = true) ∧
    ((Instr.hamModG 8 false 255).wellFormed = true ∧ (Instr.hamModG 8 false 255).inSpace (.pixelHam 255 8) = true) ∧
    ((Instr.unpackUnsupported 255).wellFormed = true ∧ (Instr.unpackUnsupported 255).inSpace .compSel = true) ∧
    (Instr.fixHamcull.inSpace .fixSel = true ∧ Instr.compHam.inSpace .compositorSel = true) := by decide
theorem witness_DecodedInstructionsAreWellFormed : decode .rle (.byte 0x81) = .ok (.rep 1) ∧
    decode (.pixelHam 0 8) (.byte 0xFF) = .ok (.hamModG 8 false 0xFF) := by decide
theorem witness_IgnoredBitsDoNotDecode : (0x1F : Byte).toNat % 2 ^ (2 + 2) = (0xEF : Byte).toNat % 2 ^ (2 + 2) ∧
    (0x00000880 : U32).getLsbD 11 = (0xFFFFFFFF : U32).getLsbD 11 ∧
    (0x00000880 : U32).getLsbD 7 = (0xFFFFFFFF : U32).getLsbD 7 := by decide
theorem witness_AssembledRunsDecodeToTheirLength : (AsmLine.lit [7]).assemble = some [0x00, 7] ∧
    (AsmLine.rep 2 9).assemble = some [0xFF, 9] ∧ (AsmLine.rep 128 9).assemble = some [0x81, 9] := by decide
/-- One state for every clause of the statement. -/
theorem witness_StopsAreNamed :
    (let s := { assembled with src := [] };
      s.runs [.rle] ∧ s.pbFill < s.pbSize ∧ s.srcPc < s.srcLen ∧ memRead s.src s.srcPc = none ∧ 0 < s.srcLen ∧
        0 < s.pbSize ∧ memRead s.src 0 = none) ∧
    (let s := { atPixel 0 with cb := [] };
      s.runs [.pixels] ∧ s.pix < s.npix ∧ memRead s.cb s.pix = none) ∧
    (let s := { decoded with fb := [] };
      s.phase = .done ∧ 7 < s.npix ∧ memRead s.fb 7 = none) ∧
    (let s := { hamRow with cfg := { Params.default with abitsFn := .table (List.replicate 17 9) }, cb := [(0, 255)] };
      s.runs [.pixels] ∧ s.pix < s.npix ∧ memRead s.cb s.pix = some 255 ∧ s.ham = true ∧ s.wpalCount ≤ (255 : Byte).toNat ∧
        8 < s.wpalBits) ∧
    Instr.deint.isHostCommand = false := by decide
theorem witness_PhaseChangesOnlyAsTheRuleSays : ∃ t, step (atPixel 8) = .next t ∧ t.phase = .done := ⟨_, rfl, rfl⟩
theorem witness_InputsChangeOnlyByCommandsInIdle : (∃ t, step (atPixel 0) = .next t) ∧ (atPixel 0).due ≠ some .reset ∧
    (atPixel 0).phase ≠ .idle ∧ (∃ t, step loaded = .next t) ∧ loaded.due = none :=
  ⟨⟨_, rfl⟩, by decide, by decide, ⟨_, rfl⟩, by decide⟩
theorem witness_BuffersHaveOneWriter : (∃ t, step (running .fix) = .next t) ∧ (running .fix).due ≠ some .reset ∧
    ¬ (running .fix).runs [.unpack, .rle] ∧ ¬ (running .fix).runs [.deint] ∧ ¬ (atPixel 0).runs [.fix] ∧
    ¬ (running .fix).runs [.pixels] ∧ (running .fix).ham = false ∧ (running .fix).due ≠ some .start :=
  ⟨⟨_, rfl⟩, by decide⟩
theorem witness_FlagsStickUntilTheirClear :
    let s := { loaded with cmdErr := true, palOvf := true, srcOvf := true, inbox := [⟨0, .palClear⟩] }
    (∃ t, step s = .next t) ∧ s.due ≠ some .reset ∧ s.cmdErr = true ∧ s.hdrValid = true ∧ s.srcOvf = true ∧
      ¬ (s.phase = .idle ∧ s.due = some .srcClear) :=
  ⟨⟨_, rfl⟩, by decide⟩
theorem witness_EndedDecodesHoldUntilReset : (∃ t, step decoded = .next t) ∧ Finished decoded ∧
    decoded.due ≠ some .reset :=
  ⟨⟨_, rfl⟩, by decide⟩
theorem witness_EveryStepKeepsTheInvariant : StateInv (atPixel 1) ∧ ∃ t, step (atPixel 1) = .next t :=
  ⟨atPixel_inv, _, rfl⟩
theorem witness_StepNeverStopsInGoodStates : StateInv (atPixel 1) ∧ StateInv decoded := ⟨atPixel_inv, decoded_inv⟩
theorem witness_DecodeEndsInDoneOrFault : StateInv (running .unpack) ∧ (running .unpack).phase = .busy ∧
    (running .unpack).inbox = [] :=
  ⟨running_inv, by decide⟩

/-- The same inputs as `loaded`, over what an earlier session left in FB and the flags. -/
def reloaded : State := { loaded with fb := [(5, ⟨9, 9, 9, 255⟩)], cmdErr := true, freeCount := 3 }

theorem witness_ImageDependsOnTheInputsAlone : StateInv loaded ∧ StateInv reloaded ∧ loaded.phase = .idle ∧
    reloaded.phase = .idle ∧ SameInputs loaded reloaded ∧ ∃ s', runSteps 1 loaded.started = .next s' :=
  ⟨loaded_inv, ⟨by decide, by decide, by decide, by decide, by decide, by decide, by decide, by decide⟩, by decide,
    by decide, by decide, _, rfl⟩
theorem witness_HostHandsOnTheImageOrOneError : StateInv loaded ∧ (hostDecode .default exampleContainer).bodySeen = true ∧
    (hostDecode .default (exampleContainer.take 54)).bodySeen = false :=
  ⟨loaded_inv, by decide, by decide⟩

end Sys2Proof.Machine
end

section
/-!
PROOFS. The invariant under each update of the state, and from these under every step.
-/

namespace Sys2Proof.Machine

/-! ### The invariant and the updates of every phase -/

/-- What is on its way is no part of the other clauses. -/
theorem stateInv_inbox {s : State} (h : StateInv s) {l : List Arrival}
    (hl : l.all (fun a => a.cmd.isHostCommand) = true) : StateInv { s with inbox := l } := by
  obtain ⟨hform, hpal, hstream, hphase, hacc, hunit, himg, -⟩ := h
  exact ⟨hform, hpal, hstream, hphase, hacc, hunit, himg, hl⟩

/-- A command that comes nearer stays the command it is. -/
theorem stateInv_tick {s : State} (h : StateInv s) : StateInv s.tick := by
  have ⟨_, _, _, _, _, _, _, hbox⟩ := h
  cases hi : s.inbox with
  | nil => rwa [State.tick, hi]
  | cons e rest =>
    obtain ⟨after, cmd⟩ := e
    rw [InboxInv, hi] at hbox
    cases after with
    | zero => rwa [State.tick, hi]
    | succ n => rw [State.tick, hi]; exact stateInv_inbox h hbox

theorem Cause.code_ne_zero (f : Cause) : f.code ≠ 0 := by cases f <;> decide

/-- A fault may be taken in any good state: the clauses of the other phases are void in FAULT. -/
theorem stateInv_raise {s : State} (h : StateInv s) (f : Cause) (info : Nat) : StateInv (s.raise f info) := by
  obtain ⟨hform, hpal, hstream, -, -, -, -, hbox⟩ := h
  exact ⟨hform, hpal, hstream, ⟨⟨fun _ => f.code_ne_zero, fun _ => rfl⟩, fun he => absurd he f.code_ne_zero, nofun⟩,
    nofun, nofun, nofun, hbox⟩

/-- RESET needs only what it leaves: the parameters and the commands on their way. -/
theorem stateInv_resetBlock {s : State} (hcfg : s.cfg.Legal) (hbox : InboxInv s) : StateInv s.resetBlock :=
  ⟨⟨hcfg, wf_resetBlock s⟩, ⟨Nat.zero_le _, nofun, Nat.zero_le _, nofun, rfl⟩,
    ⟨Nat.zero_le _, rfl, Nat.le_refl 0, Nat.zero_le _, rfl⟩, ⟨⟨nofun, fun h => absurd rfl h⟩, fun _ => rfl,
    fun _ => ⟨rfl, rfl, rfl⟩⟩, nofun, nofun, nofun, hbox⟩

/-- A read or a dropped command touches nothing the invariant names. -/
theorem stateInv_of_readFrame {s t : State} (h : StateInv s) (hr : ReadFrame s t) : StateInv t := by
  obtain ⟨_, _, _, rfl, -⟩ := hr
  exact h

/-! ### The load commands and START -/

/-- In IDLE no fault is recorded. -/
theorem err_of_idle {s : State} (h : StateInv s) (hp : s.phase = .idle) : s.err = 0 := by
  obtain ⟨-, -, -, ⟨hfault, -, -⟩, -⟩ := h
  by_contra he
  exact absurd (hp.symm.trans (hfault.mpr he)) (by decide)

/-- PAL_PUSH appends an opaque entry below PAL_DEPTH, or sets a flag. -/
theorem paletteInv_palAppend {s : State} (h : PaletteInv s) (r g b : Byte) : PaletteInv (s.palAppend r g b) := by
  obtain ⟨hcount, hopaque, hw, hwo, hprev⟩ := h
  unfold State.palAppend
  split
  · rename_i hroom
    refine ⟨hroom, fun k hk => ?_, hw, hwo, hprev⟩
    rw [regRead_regWrite]
    split
    · rfl
    · exact hopaque k (by dsimp only at hk; omega)
  · exact ⟨hcount, hopaque, hw, hwo, hprev⟩

/-- SRC_PUSH appends a byte below SRC_DEPTH, or sets a flag. -/
theorem streamInv_srcAppend {s : State} (h : StreamInv s) (v : Byte) : StreamInv (s.srcAppend v) := by
  obtain ⟨hlen, hfilled, hpc, hfill, hpb⟩ := h
  unfold State.srcAppend
  split
  · rename_i hroom
    exact ⟨hroom, memFilled_memWrite_next v hfilled, Nat.le_succ_of_le hpc, hfill, hpb⟩
  · exact ⟨hlen, hfilled, hpc, hfill, hpb⟩

/-- In IDLE what concerns a running or ended decode is void, and the working registers are 0. -/
theorem stateInv_of_idle {t : State} (hp : t.phase = .idle) (hform : FormInv t) (hpal : PaletteInv t)
    (hstream : StreamInv t) (hphase : PhaseInv t) (hbox : InboxInv t) : StateInv t :=
  ⟨hform, hpal, hstream, hphase, by simp [AcceptedInv, hp], by simp [UnitInv, hp], by simp [ImageInv, hp], hbox⟩

theorem stateInv_palAppend {s : State} (h : StateInv s) (hp : s.phase = .idle) (r g b : Byte) :
    StateInv (s.palAppend r g b) := by
  obtain ⟨⟨hcfg, hwf⟩, hpal, hstream, hphase, -, -, -, hbox⟩ := h
  have hrest : s.palAppend r g b = { s with
      pal := (s.palAppend r g b).pal, palCount := (s.palAppend r g b).palCount, palOvf := (s.palAppend r g b).palOvf } := by
    unfold State.palAppend; split <;> rfl
  have hwf' := wf_palAppend hwf r g b
  have hpal' := paletteInv_palAppend hpal r g b
  rw [hrest] at hwf' hpal' ⊢
  exact stateInv_of_idle hp ⟨hcfg, hwf'⟩ hpal' hstream hphase hbox

theorem stateInv_srcAppend {s : State} (h : StateInv s) (hp : s.phase = .idle) (v : Byte) :
    StateInv (s.srcAppend v) := by
  obtain ⟨⟨hcfg, hwf⟩, hpal, hstream, hphase, -, -, -, hbox⟩ := h
  have hrest : s.srcAppend v = { s with
      src := (s.srcAppend v).src, srcLen := (s.srcAppend v).srcLen, srcOvf := (s.srcAppend v).srcOvf } := by
    unfold State.srcAppend; split <;> rfl
  have hwf' := wf_srcAppend hwf v
  have hstream' := streamInv_srcAppend hstream v
  rw [hrest] at hwf' hstream' ⊢
  exact stateInv_of_idle hp ⟨hcfg, hwf'⟩ hpal hstream' hphase hbox

/-- An accepted load command. HDR_LOAD may shrink PB_SIZE and SRC_CLEAR the span, because PB_FILL and SRC_PC are 0. -/
theorem stateInv_of_loadFrame {cmd : Instr} {s t : State} (h : StateInv s) (hp : s.phase = .idle)
    (hl : LoadFrame cmd s t) : StateInv t := by
  have ⟨hform, hpal, hstream, hphase, _, _, _, hbox⟩ := h
  have ⟨hlen, hsrc, _, hroom, hpb⟩ := hstream
  have ⟨_, _, hworking⟩ := hphase
  obtain ⟨hpc, hfill, -⟩ := hworking hp
  rcases hl with ⟨w, hh, p, c, rfl⟩ | ⟨m, rfl⟩ | ⟨-, rfl⟩ | ⟨r, g, b, rfl⟩ | ⟨-, rfl⟩ | ⟨v, rfl⟩
  · exact stateInv_of_idle hp hform hpal ⟨hlen, hsrc, hpc.le.trans (Nat.zero_le _), hfill.le.trans (Nat.zero_le _), hpb⟩
      hphase hbox
  · exact stateInv_of_idle hp hform hpal hstream hphase hbox
  · exact stateInv_of_idle hp hform ⟨Nat.zero_le _, nofun, hpal.2.2⟩ hstream hphase hbox
  · exact stateInv_palAppend h hp r g b
  · exact stateInv_of_idle hp hform hpal ⟨Nat.zero_le _, rfl, hpc.le, hroom, hpb⟩ hphase hbox
  · exact stateInv_srcAppend h hp v

/-- START raises a fault, or every test has passed and it launches. -/
theorem execStart_cases {s t : State} (hp : s.phase = .idle) (h : execStart s = .next t) :
    (∃ f info, t = s.raise f info) ∨
      (t = s.launch ∧ s.hdrValid = true ∧ (s.comp = Const.compNone ∨ s.comp = Const.compRle) ∧
        s.nplanes.toNat ≤ s.cfg.maxPlanes ∧ s.palOvf = false ∧ s.srcOvf = false ∧ s.pbSize ≤ s.cfg.pbDepth ∧
        s.npix ≤ s.cfg.pixDepth) := by
  unfold execStart execUnpackUnsupported at h
  rw [if_neg (not_not_intro hp)] at h
  split at h
  · cases h; exact .inl ⟨_, _, rfl⟩
  split at h
  · cases h; exact .inl ⟨_, _, rfl⟩
  rename_i hv hc
  obtain rfl : s.startRest = t := by injection h
  unfold State.startRest
  split_ifs with hn hpo hso hpb hpx
  case neg =>
    exact .inr ⟨rfl, by simpa using hv, by tauto, by omega, by simpa using hpo, by simpa using hso, by omega, by omega⟩
  all_goals exact .inl ⟨_, _, rfl⟩

/-- An accepted START. -/
theorem stateInv_of_start {s t : State} (h : StateInv s) (hp : s.phase = .idle) (ht : execStart s = .next t) :
    StateInv t := by
  rcases execStart_cases hp ht with ⟨f, info, rfl⟩ | ⟨rfl, hpassed⟩
  · exact stateInv_raise h f info
  · have herr := err_of_idle h hp
    obtain ⟨hform, ⟨hcount, hopaque, -⟩, ⟨hlen, hsrc, -⟩, ⟨-, hinfo, -⟩, -, -, -, hbox⟩ := h
    exact ⟨hform, ⟨hcount, hopaque, Nat.zero_le _, nofun, rfl⟩,
      ⟨hlen, hsrc, Nat.zero_le _, Nat.zero_le _, rfl⟩, ⟨⟨nofun, fun he => absurd herr he⟩, hinfo, nofun⟩, fun _ => hpassed,
      fun _ => by simp, nofun, hbox⟩

/-- A host command that answers. -/
theorem stateInv_of_command {cmd : Instr} {s t : State} (h : StateInv s) (hc : cmd.isHostCommand = true)
    (ht : exec cmd s = .next t) : StateInv t := by
  rcases command_cases hc ht with ⟨-, rfl⟩ | ⟨-, hr⟩ | ⟨-, -, hp, hl⟩ | ⟨rfl, hp, -⟩
  · obtain ⟨⟨hcfg, -⟩, -, -, -, -, -, -, hbox⟩ := h
    exact stateInv_resetBlock hcfg hbox
  · exact stateInv_of_readFrame h hr
  · exact stateInv_of_loadFrame h hp hl
  · exact stateInv_of_start h hp ht

/-! ### A running unit -/

/-- A good state in which a unit runs. -/
abbrev BusyInv (s : State) : Prop := StateInv s ∧ s.phase = .busy

/-- The sequencer goes on to a unit that finds what it needs. -/
theorem busyInv_goto {s : State} (h : BusyInv s) {st : Stage} (hu : UnitInv (s.goto st)) : BusyInv (s.goto st) := by
  obtain ⟨⟨hform, hpal, hstream, hphase, hacc, -, himg, hbox⟩, hb⟩ := h
  exact ⟨⟨hform, hpal, hstream, hphase, hacc, hu, himg, hbox⟩, hb⟩

/-- Pseudocode that goes on from a good state or raises there leaves a good state. -/
theorem stateInv_of_ends {f : Flow} {k : Fault → Prop} {t : State} (h : f.Ends BusyInv StateInv k)
    (ht : f.outcome = .next t) : StateInv t :=
  (h.of_outcome ht).elim And.left id

/-! ### UNPACK -/

/-- A new stream position and plane buffer, within their ranges. -/
theorem busyInv_stream {s : State} (h : BusyInv s) {pb : List Host.Cell} {fill pc : Nat} (hpc : pc ≤ s.srcLen)
    (hfill : fill ≤ s.pbSize) (hwf : memWf pb = true) (hpb : memFilled pb fill = true) :
    BusyInv { s with pb := pb, pbFill := fill, srcPc := pc } := by
  obtain ⟨⟨⟨hcfg, hmem⟩, hpal, ⟨hlen, hsrc, -⟩, ⟨hfault, hinfo, -⟩, hacc, hunit, himg, hbox⟩, hb⟩ := h
  rw [Memory.wf_iff] at hmem
  obtain ⟨wsrc, -, wrest⟩ := hmem
  exact ⟨⟨⟨hcfg, (Memory.wf_iff _).mpr ⟨wsrc, hwf, wrest⟩⟩, hpal, ⟨hlen, hsrc, hpc, hfill, hpb⟩,
    ⟨hfault, hinfo, fun hi => absurd (hb.symm.trans hi) (by decide)⟩, hacc, hunit, himg, hbox⟩, hb⟩

/-- What the units know of PB and of the two stream counters. -/
theorem busyInv_stream_facts {s : State} (h : BusyInv s) :
    memWf s.pb = true ∧ memFilled s.pb s.pbFill = true ∧ s.pbFill ≤ s.pbSize ∧ s.srcPc ≤ s.srcLen := by
  obtain ⟨⟨⟨-, hmem⟩, -, ⟨-, -, hpc, hfill, hpb⟩, -⟩, -⟩ := h
  obtain ⟨-, hwf, -⟩ := (Memory.wf_iff s).mp hmem
  exact ⟨hwf, hpb, hfill, hpc⟩

/-- The fetch moves SRC_PC within the span (R141). -/
theorem busyInv_fetch {s : State} (h : BusyInv s) (hpc : s.srcPc < s.srcLen) :
    BusyInv { s with srcPc := s.srcPc + 1 } := by
  obtain ⟨hwf, hpb, hfill, -⟩ := busyInv_stream_facts h
  exact busyInv_stream h hpc hfill hwf hpb

/-- The store appends a byte where PB has room (R141). -/
theorem busyInv_storePb {s : State} (h : BusyInv s) (hroom : s.pbFill < s.pbSize) (v : Byte) :
    BusyInv (s.storePb v) := by
  obtain ⟨hwf, hpb, -, hpc⟩ := busyInv_stream_facts h
  exact busyInv_stream h hpc hroom (memWf_memWrite _ _ _ hwf) (memFilled_memWrite_next v hpb)

theorem litPass_keeps (j : Nat) {s : State} (h : BusyInv s) :
    (litPass j s).Ends BusyInv StateInv (fun _ => True) := by
  unfold litPass State.fetchSrc
  split
  · exact h
  split
  · exact stateInv_raise h.1 _ _
  · rename_i hroom hspan
    rcases readOrStuck_cases .src s.src s.srcPc
      (fun v => .goesOn (({ s with srcPc := s.srcPc + 1 } : State).storePb v)) with ⟨v, -, e⟩ | ⟨-, e⟩ <;> rw [e]
    · exact busyInv_storePb (busyInv_fetch h (by omega)) (Nat.lt_of_not_le hroom) v
    · trivial

theorem execLit_keeps {n : BitVec 7} {s t : State} (h : BusyInv s) (ht : execLit n s = .next t) : StateInv t :=
  stateInv_of_ends (forEach_ends (fun _ => BusyInv) StateInv (fun _ => True) (litCount n) 0 s h
    (fun j _ _ _ hu => litPass_keeps j hu)) ht

theorem repPass_keeps (d : Byte) (j : Nat) {s : State} (h : BusyInv s) : BusyInv (repPass d j s) := by
  unfold repPass
  split
  · exact h
  · exact busyInv_storePb h (by omega) d

theorem execRep_keeps {n : BitVec 7} {s t : State} (h : BusyInv s) (ht : execRep n s = .next t) : StateInv t := by
  unfold execRep State.fetchSrc at ht
  split at ht
  · cases ht; exact stateInv_raise h.1 _ _
  · rename_i hspan
    rcases readOrStuck_cases .src s.src s.srcPc (fun d => Flow.goesOn
      (forUpdate (repPass d) (repCount n) 0 { s with srcPc := s.srcPc + 1 })) with ⟨d, -, e⟩ | ⟨-, e⟩ <;> rw [e] at ht
    · cases ht
      exact (forUpdate_inv (fun _ => BusyInv) _ 0 _ (busyInv_fetch h (by omega))
        (fun j _ _ _ hu => repPass_keeps d j hu)).1
    · cases ht

/-- While UNPACK.RAW copies, PB_FILL still names what was written before, and the copied bytes are written. -/
theorem rawPass_keeps {s t : State} {a : Nat} (h : BusyInv t ∧ StreamOnly s t ∧ memFilled t.pb a = true) :
    (rawPass a t).Ends (fun u => BusyInv u ∧ StreamOnly s u ∧ memFilled u.pb (a + 1) = true) StateInv
      (fun _ => True) := by
  obtain ⟨hb, honly, hfilled⟩ := h
  unfold rawPass
  rcases readOrStuck_cases .src t.src a (fun x => .goesOn { t with pb := memWrite t.pb a x }) with
    ⟨x, -, e⟩ | ⟨-, e⟩ <;> rw [e]
  · obtain ⟨hwf, hpb, hfill, hpc⟩ := busyInv_stream_facts hb
    exact ⟨busyInv_stream hb hpc hfill (memWf_memWrite _ _ _ hwf) (memFilled_memWrite a x hpb),
      honly.trans ⟨_, _, _, rfl⟩, memFilled_memWrite_next x hfilled⟩
  · trivial

theorem execUnpackRaw_keeps {s t : State} (h : BusyInv s) (ht : execUnpackRaw s = .next t) : StateInv t := by
  unfold execUnpackRaw at ht
  refine stateInv_of_ends (Flow.Ends.andThen ((forEach_ends
    (fun a u => BusyInv u ∧ StreamOnly s u ∧ memFilled u.pb a = true) StateInv (fun _ => True)
    (min s.srcLen s.pbSize) 0 s ⟨h, .refl s, rfl⟩ (fun a u _ _ hu => rawPass_keeps hu)).imp
    (fun u hu => ?_) (fun _ h => h) (fun _ h => h))) ht
  obtain ⟨hb, ⟨pb, fill, pc, rfl⟩, hfilled⟩ := hu
  obtain ⟨hwf, -⟩ := busyInv_stream_facts hb
  rw [Nat.zero_add] at hfilled
  exact busyInv_goto (busyInv_stream hb (Nat.min_le_left _ _) (Nat.min_le_right _ _) hwf hfilled) (fun _ => by simp)

/-- One pass of UNPACK.RLE's loop. -/
theorem rleStep_keeps {s t : State} (h : BusyInv s) (ht : rleStep s = .next t) : StateInv t := by
  unfold rleStep at ht
  split at ht
  · rename_i hgo
    have hfetch := busyInv_fetch h (by simp [State.rleGoesOn] at hgo; exact hgo.2)
    split at ht
    · dsimp only [runDecoded, decode] at ht
      unfold decodeRle at ht
      split at ht
      · cases ht; exact stateInv_raise hfetch.1 _ _
      split at ht
      · exact execLit_keeps hfetch ht
      · exact execRep_keeps hfetch ht
    · cases ht
  · cases ht; exact (busyInv_goto h (fun _ => by simp)).1

/-- The selection of UNPACK by COMP. -/
theorem unpackStep_keeps {s t : State} (h : BusyInv s) (ht : exec (decodeCompSel s.comp) s = .next t) :
    StateInv t := by
  unfold decodeCompSel at ht
  split at ht
  · exact execUnpackRaw_keeps h ht
  split at ht
  · cases ht; exact (busyInv_goto h (fun _ => by simp)).1
  · cases ht; exact stateInv_raise h.1 _ _

/-! ### DEINT -/

/-- A property that a store of a pixel code keeps, and after which a fault leaves a good end, is kept by the plane
bytes. -/
theorem deintByte_keeps {P R : State → Prop} (hstore : ∀ u k v, P u → P (u.storeCb k v))
    (hraise : ∀ u f info, P u → R (u.raise f info)) (y p i : Nat) {s : State} (h : P s) :
    (deintByte y p i s).Ends P R (fun _ => True) := by
  have bits : ∀ v, (forEach (deintBit y p i v) 8 0 s).Ends P R (fun _ => True) := fun v =>
    forEach_ends (fun _ => P) _ _ 8 0 s h (fun k u _ _ hu => by
      unfold deintBit
      dsimp only
      split
      · rcases readOrStuck_cases .cb u.cb (y * u.width.toNat + (i * 8 + k)) (fun c => .goesOn
          (u.storeCb (y * u.width.toNat + (i * 8 + k)) (c ||| BitVec.ofNat 8 (2 ^ p)))) with ⟨c, -, e⟩ | ⟨-, e⟩ <;> rw [e]
        · exact hstore u _ _ hu
        · trivial
      · exact hu)
  unfold deintByte State.pbyte
  split
  · rcases readOrStuck_cases .pb s.pb (s.pbOff y p i) (fun v => forEach (deintBit y p i v) 8 0 s) with
      ⟨v, -, e⟩ | ⟨-, e⟩ <;> rw [e]
    · exact bits v
    · trivial
  · split
    · exact hraise s _ _ h
    · exact bits 0

theorem deintRow_keeps {P R : State → Prop} (hstore : ∀ u k v, P u → P (u.storeCb k v))
    (hraise : ∀ u f info, P u → R (u.raise f info)) (y : Nat) {s : State} (h : P s) :
    (deintRow y s).Ends P R (fun _ => True) :=
  forEach_ends (fun _ => P) _ _ _ 0 s h (fun p _ _ _ hu =>
    forEach_ends (fun _ => P) _ _ _ 0 _ hu (fun i _ _ _ hv => deintByte_keeps hstore hraise y p i hv))

theorem busyInv_storeCb {s : State} (h : BusyInv s) (k : Nat) (v : Byte) : BusyInv (s.storeCb k v) := by
  obtain ⟨⟨⟨hcfg, hmem⟩, hpal, hstream, hphase, hacc, hunit, himg, hbox⟩, hb⟩ := h
  exact ⟨⟨⟨hcfg, wf_storeCb hmem k v⟩, hpal, hstream, hphase, hacc,
    fun hp => ⟨fun hst => memFilled_memWrite k v ((hunit hp).1 hst), (hunit hp).2⟩, himg, hbox⟩, hb⟩

/-- DEINT's clearing pass writes every pixel code of the image. -/
theorem deintClear_fills {s : State} (h : BusyInv s) : (forEach deintClear s.npix 0 s).Ends
    (fun u => BusyInv u ∧ memFilled u.cb u.npix = true) StateInv (fun _ => True) := by
  refine (forEach_ends (fun k u => BusyInv u ∧ memFilled u.cb k = true ∧ u.npix = s.npix) StateInv (fun _ => True)
    s.npix 0 s ⟨h, rfl, rfl⟩ ?_).imp ?_ (fun _ h => h) (fun _ h => h)
  · rintro k u - - ⟨hu, hfilled, hn⟩
    exact ⟨busyInv_storeCb hu k 0, memFilled_memWrite_next 0 hfilled, hn⟩
  · rintro u ⟨hu, hfilled, hn⟩
    exact ⟨hu, by rwa [hn, ← Nat.zero_add s.npix]⟩

theorem execDeint_keeps {s t : State} (h : BusyInv s) (ht : execDeint s = .next t) : StateInv t := by
  unfold execDeint deintAll at ht
  refine stateInv_of_ends (Flow.Ends.andThen (Flow.Ends.andThen ((deintClear_fills h).imp (fun u hu => ?_)
    (fun _ h => h) (fun _ h => h)))) ht
  refine (forEach_ends (fun _ w => BusyInv w ∧ memFilled w.cb w.npix = true) _ _ _ 0 u hu (fun y w _ _ hw =>
    deintRow_keeps (fun v k c hv => ⟨busyInv_storeCb hv.1 k c, memFilled_memWrite k c hv.2⟩)
      (fun v f info hv => stateInv_raise hv.1.1 f info) y hw)).imp ?_ (fun _ h => h) (fun _ h => h)
  rintro w ⟨hw, hfilled⟩
  exact busyInv_goto hw (fun _ => ⟨fun _ => hfilled, by simp⟩)

/-! ### FIX -/

/-- A run of entries copied to their own places. -/
theorem regRead_copies (value : Nat → Rgba) (count : Nat) (f : List (Nat × Rgba)) (k : Nat) :
    regRead (forUpdate (fun j w => regWrite w j (value j)) count 0 f) k =
      if k < count then value k else regRead f k := by
  have := forUpdate_inv (body := fun j w => regWrite w j (value j))
    (fun n w => regRead w k = if k < n then value k else regRead f k) count 0 f (by simp) (fun j w _ _ hw => by
      rw [regRead_regWrite, hw]
      by_cases hjk : j = k
      · rw [if_pos hjk, if_pos (by omega), hjk]
      · rw [if_neg hjk]
        exact if_congr (by omega) rfl rfl)
  rwa [Nat.zero_add] at this

/-- The palette after R160's copy. -/
theorem regRead_copyPalette (s : State) (k : Nat) :
    regRead s.copyPalette.wpal k = if k < s.palCount then regRead s.pal k else regRead s.wpal k :=
  regRead_copies (regRead s.pal) s.palCount s.wpal k

/-- The palette after R161's doubling: above the original half stand the half-bright copies. -/
theorem regRead_halfBrights (count : Nat) (f : List (Nat × Rgba)) (k : Nat) :
    regRead (forUpdate (fun j w => regWrite w (count + j) (halfBright (regRead w j))) count 0 f) k =
      if count ≤ k ∧ k < 2 * count then halfBright (regRead f (k - count)) else regRead f k := by
  have := forUpdate_inv (body := fun j w => regWrite w (count + j) (halfBright (regRead w j)))
    (fun n w => ∀ k, regRead w k =
      if count ≤ k ∧ k < count + n then halfBright (regRead f (k - count)) else regRead f k) count 0 f
    (fun k => by rw [if_neg (by omega)]) (fun j w _ hj hw k => by
      rw [regRead_regWrite, hw k, hw j, if_neg (show ¬ (count ≤ j ∧ j < count + j) by omega)]
      by_cases hjk : count + j = k
      · rw [if_pos hjk, if_pos (by omega), show k - count = j by omega]
      · rw [if_neg hjk]
        exact if_congr (by omega) rfl rfl)
  rw [this k, Nat.zero_add, Nat.two_mul]

/-- A working palette whose defined entries are opaque, before the pixel loop. -/
theorem busyInv_wpal {s : State} (h : BusyInv s) (hst : s.stage ≠ .pixels) {w : List (Nat × Rgba)} {n : Nat}
    (hwf : regWf w = true) (hn : n ≤ s.cfg.palDepth) (ho : ∀ k < n, (regRead w k).a = Const.alphaOpaque) :
    BusyInv { s with wpal := w, wpalCount := n } := by
  obtain ⟨⟨⟨hcfg, hmem⟩, ⟨hcount, hopaque, -, -, hprev⟩, hstream, ⟨hfault, hinfo, -⟩, hacc, hunit, himg, hbox⟩, hb⟩ := h
  rw [Memory.wf_iff] at hmem
  obtain ⟨wsrc, wpb, wcb, wfb, wpal, -⟩ := hmem
  exact ⟨⟨⟨hcfg, (Memory.wf_iff _).mpr ⟨wsrc, wpb, wcb, wfb, wpal, hwf⟩⟩, ⟨hcount, hopaque, hn, ho, hprev⟩, hstream,
    ⟨hfault, hinfo, fun hi => absurd (hb.symm.trans hi) (by decide)⟩, hacc,
    fun hp => ⟨(hunit hp).1, fun hx => absurd hx hst⟩, himg, hbox⟩, hb⟩

/-- What FIX knows of the working palette. -/
theorem busyInv_wpal_facts {s : State} (h : BusyInv s) :
    regWf s.wpal = true ∧ s.wpalCount ≤ s.cfg.palDepth ∧ ∀ k < s.wpalCount, (regRead s.wpal k).a = Const.alphaOpaque := by
  obtain ⟨⟨⟨-, hmem⟩, ⟨-, -, hn, ho, -⟩, -⟩, -⟩ := h
  obtain ⟨-, -, -, -, -, hwf⟩ := (Memory.wf_iff s).mp hmem
  exact ⟨hwf, hn, ho⟩

theorem busyInv_copyPalette {s : State} (h : BusyInv s) (hst : s.stage ≠ .pixels) : BusyInv s.copyPalette := by
  have ⟨⟨⟨_, hmem⟩, ⟨hcount, hopaque, _⟩, _⟩, _⟩ := h
  obtain ⟨-, -, -, -, -, hwf⟩ := (Memory.wf_iff _).mp (wf_copyPalette hmem)
  refine busyInv_wpal h hst hwf hcount (fun k hk => ?_)
  have hcopied := regRead_copyPalette s k
  rw [if_pos hk] at hcopied
  exact (congrArg Rgba.a hcopied).trans (hopaque k hk)

/-- The doubled palette fits: at most 64 entries, which every PAL_DEPTH allows (R6). -/
theorem busyInv_halfBrightDouble {s : State} (h : BusyInv s) (hst : s.stage ≠ .pixels) :
    BusyInv s.halfBrightDouble := by
  have ⟨⟨⟨⟨hdepth, _⟩, hmem⟩, _⟩, _⟩ := h
  obtain ⟨-, -, ho⟩ := busyInv_wpal_facts h
  obtain ⟨-, -, -, -, -, hwf⟩ := (Memory.wf_iff _).mp (wf_halfBrightDouble hmem)
  unfold State.halfBrightDouble at hwf ⊢
  split
  · exact h
  · rename_i hle
    rw [if_neg hle] at hwf
    have hsmall : s.wpalCount ≤ 32 := Nat.le_of_not_lt hle
    refine busyInv_wpal h hst hwf (by omega) (fun k hk => ?_)
    rw [regRead_halfBrights]
    split
    · rfl
    · exact ho k (by omega)

/-- The cull only shortens the palette, or faults. -/
theorem hamCull_keeps {s : State} (h : BusyInv s) (hst : s.stage ≠ .pixels) :
    s.hamCull.Ends (fun t => BusyInv t ∧ t.cb = s.cb ∧ t.npix = s.npix) StateInv (fun _ => False) := by
  unfold State.hamCull
  dsimp only
  split
  · split
    · exact stateInv_raise h.1 _ _
    · obtain ⟨hwf, hn, ho⟩ := busyInv_wpal_facts h
      have hle := Nat.div_le_self s.wpalCount (2 ^ (cullShift s.cfg.hamCullShift s.wpalBits s.nplanes.toNat).toNat)
      exact ⟨busyInv_wpal h hst hwf (hle.trans hn) (fun k hk => ho k (hk.trans_le hle)), rfl, rfl⟩
  · exact ⟨h, rfl, rfl⟩

/-- On to COMP with the pixel codes whole. -/
theorem busyInv_goto_comp {s : State} (h : BusyInv s) (hcb : memFilled s.cb s.npix = true) :
    BusyInv (s.goto .comp) :=
  busyInv_goto h (fun _ => ⟨fun _ => hcb, by simp⟩)

/-- The selection of FIX by MODE. -/
theorem fixStep_keeps {s t : State} (h : BusyInv s) (hst : s.stage = .fix)
    (ht : exec (decodeFixSel s.mode) s = .next t) : StateInv t := by
  have ⟨⟨_, _, _, _, _, hunit, _⟩, hb⟩ := h
  have hcb := (hunit hb).1 (.inl hst)
  have hnp : s.stage ≠ .pixels := by rw [hst]; decide
  have hcopy := busyInv_copyPalette h hnp
  unfold decodeFixSel at ht
  split at ht
  · cases ht
    refine (busyInv_goto_comp (busyInv_halfBrightDouble hcopy hnp) ?_).1
    unfold State.halfBrightDouble
    split <;> exact hcb
  split at ht
  · refine stateInv_of_ends (Flow.Ends.andThen ((hamCull_keeps hcopy hnp).imp (fun u hu => ?_) (fun _ h => h)
      (fun _ h => h))) ht
    obtain ⟨hu, ecb, en⟩ := hu
    exact busyInv_goto_comp hu (by rw [ecb, en]; exact hcb)
  · cases ht; exact (busyInv_goto_comp hcopy hcb).1

/-! ### COMP -/

theorem imageFilled_iff (fb : List (Nat × Rgba)) (n : Nat) :
    imageFilled fb n = true ↔ ∀ k < n, ∃ px, memRead fb k = some px ∧ px.a = Const.alphaOpaque := by
  simp only [imageFilled, List.all_eq_true, List.mem_range]
  refine forall₂_congr fun k _ => ?_
  cases memRead fb k <;> simp

/-- An opaque pixel written at the end of the image so far. -/
theorem imageFilled_memWrite_next {fb : List (Nat × Rgba)} {n : Nat} {px : Rgba} (h : imageFilled fb n = true)
    (hpx : px.a = Const.alphaOpaque) : imageFilled (memWrite fb n px) (n + 1) = true := by
  rw [imageFilled_iff] at *
  intro k hk
  rw [memRead_memWrite]
  split
  · exact ⟨px, rfl, hpx⟩
  · exact h k (by omega)

/-- The entries of COMP, given that the width guard of R179 has passed in HAM mode. -/
theorem busyInv_enterPixels {s : State} (h : BusyInv s) (hst : s.stage = .comp) (hw : s.ham = true → s.wpalBits ≤ 8) :
    BusyInv ({ s with pix := 0 }.goto .pixels) := by
  obtain ⟨⟨hform, hpal, hstream, hphase, hacc, hunit, himg, hbox⟩, hb⟩ := h
  exact ⟨⟨hform, hpal, hstream, hphase, hacc,
    fun _ => ⟨fun _ => (hunit hb).1 (.inr (.inl hst)), fun _ => ⟨Nat.zero_le _, rfl, hw⟩⟩, himg, hbox⟩, hb⟩

/-- The selection of COMP by MODE. -/
theorem compStep_keeps {s t : State} (h : BusyInv s) (hst : s.stage = .comp)
    (ht : exec (decodeCompositorSel s.mode) s = .next t) : StateInv t := by
  unfold decodeCompositorSel at ht
  split at ht
  · simp only [exec, execCompHam] at ht
    split at ht
    · cases ht; exact stateInv_raise h.1 _ _
    · cases ht; exact (busyInv_enterPixels h hst (fun _ => by omega)).1
  · rename_i hham
    cases ht; exact (busyInv_enterPixels h hst (fun hm => absurd hm hham)).1

theorem busyInv_setPrev {s : State} (h : BusyInv s) {px : Rgba} (hpx : px.a = Const.alphaOpaque) :
    BusyInv (s.setPrev px) := by
  obtain ⟨⟨hform, ⟨hcount, hopaque, hn, ho, -⟩, hrest⟩, hb⟩ := h
  exact ⟨⟨hform, ⟨hcount, hopaque, hn, ho, hpx⟩, hrest⟩, hb⟩

theorem busyInv_rowStart {s : State} (h : BusyInv s) : BusyInv s.rowStart := by
  unfold State.rowStart
  split
  · exact busyInv_setPrev h rfl
  · exact h

/-- An opaque pixel extends the image by one. -/
theorem busyInv_emitPixel {s : State} (h : BusyInv s) (hst : s.stage = .pixels) (hp : s.pix < s.npix) {px : Rgba}
    (hpx : px.a = Const.alphaOpaque) : BusyInv (s.emitPixel px) := by
  obtain ⟨⟨⟨hcfg, hmem⟩, hpal, hstream, hphase, hacc, hunit, -, hbox⟩, hb⟩ := h
  obtain ⟨hcb, hloop⟩ := hunit hb
  obtain ⟨-, hfb, hw⟩ := hloop hst
  exact ⟨⟨⟨hcfg, wf_emitPixel hmem px⟩, hpal, hstream, hphase, hacc,
    fun _ => ⟨hcb, fun _ => ⟨hp, imageFilled_memWrite_next hfb hpx, hw⟩⟩,
    fun hd => absurd (hb.symm.trans hd) (by decide), hbox⟩, hb⟩

/-- What a step of the pixel loop does before the last pixel: the fault of R171, a pixel of the palette, or, in HAM
mode, a pixel held from a palette entry or with the alpha of PREV. -/
theorem pixelStep_cases {s t : State} (hp : s.pix < s.npix) (h : pixelStep s = .next t) :
    (∃ f info, t = s.raise f info) ∨ (∃ k < s.wpalCount, t = s.emitPixel (regRead s.wpal k)) ∨
      ∃ px, t = s.rowStart.holdPixel px ∧ ((∃ k < s.wpalCount, px = regRead s.wpal k) ∨ px.a = s.rowStart.prev.a) := by
  unfold pixelStep at h
  rw [if_pos hp] at h
  split at h
  case h_2 => cases h
  rename_i c _
  unfold State.pixelSpace at h
  by_cases hm : hamFlag s.mode = true
  · simp only [runDecoded, hm, if_true, decode, decodeHam] at h
    split at h
    case h_2 => cases h
    rename_i i hi
    have hwpal : s.rowStart.wpal = s.wpal := by rw [rowStart_eq]
    split at hi
    · rename_i hlt
      cases hi; cases h
      exact .inr (.inr ⟨_, rfl, .inl ⟨c.toNat, hlt, by rw [hwpal]⟩⟩)
    split at hi
    · cases hi
      unfold decodeModify at h
      split_ifs at h <;> cases h <;> exact .inr (.inr ⟨_, rfl, .inr rfl⟩)
    · cases hi
  · rw [if_neg hm, rowStart_of_direct (eq_false_of_ne_true hm)] at h
    simp only [runDecoded, decode, exec, execIdx] at h
    split at h
    · cases h; exact .inl ⟨_, _, rfl⟩
    · cases h; exact .inr (.inl ⟨_, by omega, rfl⟩)

/-- A step of the pixel loop. -/
theorem pixelStep_keeps {s t : State} (h : BusyInv s) (hst : s.stage = .pixels) (ht : pixelStep s = .next t) :
    StateInv t := by
  have ⟨hinv, hb⟩ := h
  by_cases hp : s.pix < s.npix
  · obtain ⟨-, -, ho⟩ := busyInv_wpal_facts h
    rcases pixelStep_cases hp ht with ⟨f, info, rfl⟩ | ⟨k, hk, rfl⟩ | ⟨px, rfl, hpx⟩
    · exact stateInv_raise hinv f info
    · exact (busyInv_emitPixel h hst hp (ho k hk)).1
    · have hrow := busyInv_rowStart h
      have ⟨⟨_, ⟨_, _, _, _, hprev⟩, _⟩, _⟩ := hrow
      have hpx' : px.a = Const.alphaOpaque := by
        rcases hpx with ⟨k, hk, rfl⟩ | e
        · exact ho k hk
        · exact e.trans hprev
      rw [rowStart_eq] at hrow ⊢
      exact (busyInv_setPrev (busyInv_emitPixel hrow hst hp hpx') hpx').1
  · unfold pixelStep at ht
    rw [if_neg hp] at ht
    cases ht
    obtain ⟨hform, hpal, hstream, ⟨hfault, hinfo, -⟩, hacc, hunit, -, hbox⟩ := hinv
    obtain ⟨hle, hfb, -⟩ := (hunit hb).2 hst
    have herr : s.err = 0 := by
      by_contra he
      exact absurd (hb.symm.trans (hfault.mpr he)) (by decide)
    exact ⟨hform, hpal, hstream, ⟨⟨nofun, fun he => absurd herr he⟩, hinfo, nofun⟩, fun _ => hacc (.inl hb), nofun,
      fun _ => Nat.le_antisymm hle (Nat.le_of_not_lt hp) ▸ hfb, hbox⟩

/-! ### The step -/

/-- A move of the running unit. -/
theorem unitStep_keeps {s t : State} (h : BusyInv s) (ht : unitStep s = .next t) : StateInv t := by
  unfold unitStep at ht
  split at ht <;> rename_i hst
  · exact unpackStep_keeps h ht
  · exact rleStep_keeps h ht
  · exact execDeint_keeps h ht
  · exact fixStep_keeps h hst ht
  · exact compStep_keeps h hst ht
  · exact pixelStep_keeps h hst ht

/-- What is left on its way after a command has arrived is still host commands. -/
theorem stateInv_arrived {s : State} (h : StateInv s) {a : Arrival} {rest : List Arrival} (hi : s.inbox = a :: rest) :
    StateInv { s with inbox := rest } := by
  have ⟨_, _, _, _, _, _, _, hbox⟩ := h
  rw [InboxInv, hi, List.all_cons, Bool.and_eq_true] at hbox
  exact stateInv_inbox h hbox.2

/-- Settles O53: a step is a command that arrives, a move of the running unit, or a wait (`step_cases`), and each keeps
the invariant. -/
theorem everyStepKeepsTheInvariant : Obligations.EveryStepKeepsTheInvariant := by
  unfold Obligations.EveryStepKeepsTheInvariant
  intro s t h ht
  rcases step_cases ht with ⟨cmd, rest, hi, -, hc, he⟩ | ⟨-, hb, hu⟩ | ⟨-, -, rfl⟩
  · exact stateInv_of_command (stateInv_arrived h hi) hc he
  · exact unitStep_keeps ⟨stateInv_tick h, s.tick_phase.trans hb⟩ hu
  · exact stateInv_tick h

end Sys2Proof.Machine
end

section
/-!
PROOFS. The reset state, the derived values and flags of the state, and the register reads that are open in BUSY.
-/

namespace Sys2Proof.Machine

/-- Settles O2: the reset state is what RESET makes of it. -/
theorem resetStateMeetsTheInvariant : Obligations.ResetStateMeetsTheInvariant :=
  stateInv_resetBlock (s := State.reset) (by decide) rfl

/-! ### The address width -/

/-- The first width that fails a test which `n` itself fails. -/
theorem countUp_zero_spec {test : Nat → Bool} {n : Nat} (h : test n = false) :
    test (countUp test (n + 1) 0) = false ∧ ∀ b, test b = false → countUp test (n + 1) 0 ≤ b := by
  obtain ⟨hstop, -, hbelow⟩ := countUp_spec test (n + 1) 0 ⟨n, Nat.zero_le n, by omega, h⟩
  refine ⟨hstop, fun b hb => Nat.le_of_not_lt fun hlt => ?_⟩
  exact absurd (hb.symm.trans (hbelow b (Nat.zero_le b) hlt)) (by decide)

theorem smallestWidth_spec (n : Nat) : n ≤ 2 ^ smallestWidth n ∧ ∀ b, n ≤ 2 ^ b → smallestWidth n ≤ b := by
  obtain ⟨hstop, hleast⟩ := countUp_zero_spec (test := fun b => 2 ^ b < n) (n := n)
    (decide_eq_false (Nat.lt_two_pow_self.not_gt))
  exact ⟨Nat.le_of_not_lt (of_decide_eq_false hstop), fun b hb => hleast b (decide_eq_false hb.not_gt)⟩

theorem legacyWidth_spec (n : Nat) : n < 2 ^ legacyWidth n ∧ ∀ b, n < 2 ^ b → legacyWidth n ≤ b := by
  obtain ⟨hstop, hleast⟩ := countUp_zero_spec (test := fun b => 2 ^ b ≤ n) (n := n)
    (decide_eq_false (Nat.lt_two_pow_self.not_ge))
  exact ⟨Nat.lt_of_not_le (of_decide_eq_false hstop), fun b hb => hleast b (decide_eq_false hb.not_ge)⟩

/-- Settles O31: each form counts up to the first width that is enough, and `2 ^ n` always is. -/
theorem abitsIsTheSmallestWidth : Obligations.AbitsIsTheSmallestWidth :=
  fun n => ⟨smallestWidth_spec n, legacyWidth_spec n⟩

/-! ### Flags, STATUS and the geometry -/

/-- The mask of one bit tests that bit. -/
theorem and_twoPow_ne_zero (m : U32) {i : Nat} (hi : i < 32) :
    decide (m &&& BitVec.twoPow 32 i ≠ 0) = m.getLsbD i := by
  have hbit : BitVec.twoPow 32 i ≠ 0#32 := fun h => by
    have := congrArg (fun x => x.getLsbD i) h
    simp [hi] at this
  rw [BitVec.and_twoPow]
  cases m.getLsbD i <;> simp [hbit]

theorem hamFlag_eq (m : U32) : hamFlag m = m.getLsbD 11 := and_twoPow_ne_zero m (i := 11) (by decide)
theorem ehbFlag_eq (m : U32) : ehbFlag m = m.getLsbD 7 := and_twoPow_ne_zero m (i := 7) (by decide)

/-- Settles O5: HAM_BIT and EHB_BIT are the masks of bits 11 and 7. -/
theorem modeFlagsAreBits11And7 : Obligations.ModeFlagsAreBits11And7 :=
  fun s => ⟨hamFlag_eq s.mode, ehbFlag_eq s.mode⟩

/-- Settles O14: STATUS is the concatenation of its fields. -/
theorem statusFieldsStandWhereTheRuleSays : Obligations.StatusFieldsStandWhereTheRuleSays := by
  unfold Obligations.StatusFieldsStandWhereTheRuleSays
  intro s
  have hfields : s.status = (0#2 ++ BitVec.ofBool s.cmdErr ++ BitVec.ofBool s.srcOvf ++ BitVec.ofBool s.palOvf ++
      BitVec.ofBool s.hdrValid ++ s.phase.code : BitVec (2 + 1 + 1 + 1 + 1 + 2)) := rfl
  refine ⟨?_, ?_⟩
  · have hphase : s.status.extractLsb' 0 2 = s.phase.code := BitVec.extractLsb'_append_eq_right
    rw [hphase]
    cases s.phase <;> rfl
  · simp only [hfields, BitVec.getLsbD_append]
    simp

/-- Settles O27: R24's formulas, and the rounding of WIDTH to units of 16 and of 8 pixels. -/
theorem pitchIsEvenAndCoversTheRow : Obligations.PitchIsEvenAndCoversTheRow := by
  unfold Obligations.PitchIsEvenAndCoversTheRow
  intro s
  have hpitch : s.pitch = (s.width.toNat + 15) / 16 * 2 := rfl
  have hrow : s.rowBytes = (s.width.toNat + 7) / 8 := rfl
  have hwidth := s.width.isLt
  refine ⟨hpitch, hrow, rfl, rfl, ?_⟩
  omega

/-! ### The open registers -/

/-- In BUSY a read of an open register gives a free value of its range. -/
theorem regRead_open_of_busy {s : State} {no top : Nat} (hb : s.phase = .busy) (hno : no ≤ 12)
    (ho : s.openRange no = some top) : ∃ v ≤ top, exec (.regRead no) s =
      .next { s with reply := some (.reg v), freeCount := s.freeCount + 1 } := by
  refine ⟨s.freeUpTo top, Nat.le_of_lt_succ (Nat.mod_lt _ (Nat.succ_pos top)), ?_⟩
  simp only [exec, execRegRead, if_pos hno, State.readReg, hb, ho]

/-- Settles O12: 9, 11 and 12 are the open registers. -/
theorem openRegistersReadInRangeWhileBusy : Obligations.OpenRegistersReadInRangeWhileBusy := by
  unfold Obligations.OpenRegistersReadInRangeWhileBusy
  intro s hb p hp
  simp only [List.mem_cons, List.not_mem_nil, or_false] at hp
  rcases hp with rfl | rfl | rfl <;> exact regRead_open_of_busy hb (by simp) rfl

end Sys2Proof.Machine
end

section
/-!
PROOFS. What a step can do to PHASE, to the flags and to an ended decode, and where the model stops.
-/

namespace Sys2Proof.Machine

/-! ### What stays through units and commands -/

/-- The parameters, the inputs of a decode and the flags are the same. -/
def InputsKept (s t : State) : Prop :=
  t.cfg = s.cfg ∧ t.width = s.width ∧ t.height = s.height ∧ t.nplanes = s.nplanes ∧ t.comp = s.comp ∧
    t.mode = s.mode ∧ t.pal = s.pal ∧ t.palCount = s.palCount ∧ t.src = s.src ∧ t.srcLen = s.srcLen ∧
    t.hdrValid = s.hdrValid ∧ t.palOvf = s.palOvf ∧ t.srcOvf = s.srcOvf ∧ t.cmdErr = s.cmdErr

theorem InputsKept.refl (s : State) : InputsKept s s :=
  ⟨rfl, rfl, rfl, rfl, rfl, rfl, rfl, rfl, rfl, rfl, rfl, rfl, rfl, rfl⟩

theorem InputsKept.of_tick {s t : State} (h : InputsKept s.tick t) : InputsKept s t := by
  rw [State.tick_eq] at h
  exact h

theorem UnitEnds.inputsKept {s t : State} (h : UnitEnds s t) : InputsKept s t := by
  rcases h with ⟨_, rfl⟩ | ⟨_, _, rfl⟩ <;> exact .refl s

/-- No unit writes an input of the decode or a flag. -/
theorem unitStep_inputsKept {s t : State} (h : unitStep s = .next t) : InputsKept s t := by
  rcases unitStep_cases h with ⟨-, _, _, _, hu⟩ | ⟨-, _, hu⟩ | ⟨-, _, _, hu⟩ | ⟨-, _, hu⟩ | ⟨-, -, ⟨_, _, _, hu⟩, -⟩ |
    ⟨-, -, rfl⟩
  case inr.inr.inr.inr.inr => exact .refl s
  all_goals exact hu.inputsKept

/-- Nor does START. -/
theorem StartFrame.inputsKept {s t : State} (h : StartFrame s t) : InputsKept s t := by
  rcases h with rfl | ⟨_, _, rfl⟩ <;> exact .refl s

/-! ### PHASE -/

theorem UnitEnds.phase {s t : State} (h : UnitEnds s t) : t.phase = s.phase ∨ t.phase = .fault := by
  rcases h with ⟨_, rfl⟩ | ⟨_, _, rfl⟩
  · exact .inl rfl
  · exact .inr rfl

/-- A running unit leaves PHASE, faults, or is the pixel loop at its end. -/
theorem unitStep_phase {s t : State} (h : unitStep s = .next t) :
    t.phase = s.phase ∨ t.phase = .fault ∨ (t.phase = .done ∧ s.stage = .pixels ∧ s.npix ≤ s.pix) := by
  rcases unitStep_cases h with ⟨-, _, _, _, hu⟩ | ⟨-, _, hu⟩ | ⟨-, _, _, hu⟩ | ⟨-, _, hu⟩ | ⟨-, -, ⟨_, _, _, hu⟩, -⟩ |
    ⟨hst, hp, rfl⟩
  case inr.inr.inr.inr.inr => exact .inr (.inr ⟨rfl, hst, hp⟩)
  all_goals exact hu.phase.imp id .inl

theorem LoadFrame.phase {cmd : Instr} {s t : State} (h : LoadFrame cmd s t) : t.phase = s.phase := by
  rcases h with ⟨_, _, _, _, rfl⟩ | ⟨_, rfl⟩ | ⟨-, rfl⟩ | ⟨r, g, b, rfl⟩ | ⟨-, rfl⟩ | ⟨v, rfl⟩
  case inr.inr.inr.inl => unfold State.palAppend; split <;> rfl
  case inr.inr.inr.inr.inr => unfold State.srcAppend; split <;> rfl
  all_goals rfl

/-- Settles O48: RESET, START, the end of the pixel loop and the faults are all that writes PHASE. -/
theorem phaseChangesOnlyAsTheRuleSays : Obligations.PhaseChangesOnlyAsTheRuleSays := by
  unfold Obligations.PhaseChangesOnlyAsTheRuleSays
  intro s t h
  rcases step_cases h with ⟨cmd, rest, -, hd, hc, he⟩ | ⟨hd, hb, hu⟩ | ⟨-, -, rfl⟩
  · rcases command_cases hc he with ⟨rfl, rfl⟩ | ⟨-, _, _, _, rfl, -⟩ | ⟨-, -, -, hl⟩ | ⟨rfl, hp, hs⟩
    · exact .inr (.inl ⟨rfl, hd⟩)
    · exact .inl rfl
    · exact .inl hl.phase
    · rcases hs with rfl | ⟨_, _, rfl⟩
      · exact .inr (.inr (.inl ⟨hp, rfl, hd⟩))
      · exact .inr (.inr (.inr (.inr ⟨rfl, .inr ⟨hp, hd⟩⟩)))
  · rcases unitStep_phase hu with e | e | ⟨e, hst, hp⟩
    · exact .inl (e.trans s.tick_phase)
    · exact .inr (.inr (.inr (.inr ⟨e, .inl ⟨hb, hd, by cases s.stage <;> decide⟩⟩)))
    · rw [State.tick_stage] at hst
      rw [State.tick_npix, State.tick_pix] at hp
      exact .inr (.inr (.inr (.inl ⟨e, ⟨hb, hd, List.mem_singleton.mpr hst⟩, hp⟩)))
  · exact .inl s.tick_phase

/-! ### The sticky flags -/

/-- A load command clears only the overflow flag of the memory it clears. -/
theorem LoadFrame.flags {cmd : Instr} {s t : State} (h : LoadFrame cmd s t) :
    t.cmdErr = s.cmdErr ∧ (s.hdrValid = true → t.hdrValid = true) ∧
      (s.palOvf = true → cmd ≠ .palClear → t.palOvf = true) ∧ (s.srcOvf = true → cmd ≠ .srcClear → t.srcOvf = true) := by
  rcases h with ⟨_, _, _, _, rfl⟩ | ⟨_, rfl⟩ | ⟨hc, rfl⟩ | ⟨r, g, b, rfl⟩ | ⟨hc, rfl⟩ | ⟨v, rfl⟩
  · exact ⟨rfl, fun _ => rfl, fun h _ => h, fun h _ => h⟩
  · exact ⟨rfl, id, fun h _ => h, fun h _ => h⟩
  · exact ⟨rfl, id, fun _ hn => absurd hc hn, fun h _ => h⟩
  · unfold State.palAppend
    split
    · exact ⟨rfl, id, fun h _ => h, fun h _ => h⟩
    · exact ⟨rfl, id, fun _ _ => rfl, fun h _ => h⟩
  · exact ⟨rfl, id, fun h _ => h, fun _ hn => absurd hc hn⟩
  · unfold State.srcAppend
    split
    · exact ⟨rfl, id, fun h _ => h, fun h _ => h⟩
    · exact ⟨rfl, id, fun h _ => h, fun _ _ => rfl⟩

/-- Settles O51: reads only set CMD_ERR, load commands clear only their own overflow flag, and nothing else writes a
flag. -/
theorem flagsStickUntilTheirClear : Obligations.FlagsStickUntilTheirClear := by
  unfold Obligations.FlagsStickUntilTheirClear
  intro s t h hr
  have kept (hk : InputsKept s t) : (s.cmdErr = true → t.cmdErr = true) ∧ (s.hdrValid = true → t.hdrValid = true) ∧
      (s.palOvf = true → ¬ (s.phase = .idle ∧ s.due = some .palClear) → t.palOvf = true) ∧
      (s.srcOvf = true → ¬ (s.phase = .idle ∧ s.due = some .srcClear) → t.srcOvf = true) := by
    obtain ⟨-, -, -, -, -, -, -, -, -, -, hhdr, hpal, hsrc, hcmd⟩ := hk
    exact ⟨hcmd.trans, hhdr.trans, fun e _ => hpal.trans e, fun e _ => hsrc.trans e⟩
  rcases step_cases h with ⟨cmd, rest, -, hd, hc, he⟩ | ⟨-, -, hu⟩ | ⟨-, -, rfl⟩
  · rcases command_cases hc he with ⟨rfl, -⟩ | ⟨-, _, _, _, rfl, hsticky⟩ | ⟨-, -, hidle, hl⟩ | ⟨-, -, hs⟩
    · exact absurd hd hr
    · exact ⟨hsticky, id, fun e _ => e, fun e _ => e⟩
    · obtain ⟨hcmd, hhdr, hpal, hsrc⟩ := hl.flags
      exact ⟨hcmd.trans, hhdr, fun e hn => hpal e (fun hc => hn ⟨hidle, hc ▸ hd⟩),
        fun e hn => hsrc e (fun hc => hn ⟨hidle, hc ▸ hd⟩)⟩
    · exact kept hs.inputsKept
  · exact kept (unitStep_inputsKept hu).of_tick
  · exact kept (InputsKept.refl _).of_tick

/-- Settles O52: in DONE and FAULT no unit runs, and load commands and START are dropped. -/
theorem endedDecodesHoldUntilReset : Obligations.EndedDecodesHoldUntilReset := by
  unfold Obligations.EndedDecodesHoldUntilReset
  intro s t h hf hr
  have not_idle : s.phase ≠ .idle := by rcases hf with e | e <;> rw [e] <;> decide
  have not_busy : s.phase ≠ .busy := by rcases hf with e | e <;> rw [e] <;> decide
  rcases step_cases h with ⟨cmd, rest, -, hd, hc, he⟩ | ⟨-, hb, -⟩ | ⟨-, -, rfl⟩
  · rcases command_cases hc he with ⟨rfl, -⟩ | ⟨-, _, _, _, rfl, -⟩ | ⟨-, -, hidle, -⟩ | ⟨-, hidle, -⟩
    · exact absurd hd hr
    · exact ⟨rfl, rfl, rfl, rfl, rfl, rfl, rfl⟩
    · exact absurd hidle not_idle
    · exact absurd hidle not_idle
  · exact absurd hb not_busy
  · simp

/-! ### Where the model stops -/

/-- At one stage a step is the move of that unit. -/
theorem step_of_runs {s : State} {st : Stage} (h : s.runs [st]) : step s = unitStep s.tick ∧ s.tick.stage = st := by
  obtain ⟨hb, hd, hst⟩ := h
  refine ⟨?_, s.tick_stage.trans (List.mem_singleton.mp hst)⟩
  rw [step_of_due_none hd, blockStep, State.tick_phase, hb]

/-- A guarded read that finds nothing stops with its index. -/
theorem readOrStuck_of_none {α : Type} {space : MemSpace} {m : List (Nat × α)} {a : Nat} (k : α → Flow)
    (h : memRead m a = none) : readOrStuck space m a k = .stuck (.unwritten space a) := by
  simp [readOrStuck, h]

theorem rleStep_unwritten {s : State} (hroom : s.pbFill < s.pbSize) (hspan : s.srcPc < s.srcLen)
    (hm : memRead s.src s.srcPc = none) : rleStep s = .fault (.unwritten .src s.srcPc) := by
  have hgo : s.rleGoesOn = true := by simp [State.rleGoesOn, hroom, hspan]
  simp only [rleStep, hgo, if_true, hm]

theorem execRep_unwritten {s : State} (n : BitVec 7) (hspan : s.srcPc < s.srcLen)
    (hm : memRead s.src s.srcPc = none) : execRep n s = .fault (.unwritten .src s.srcPc) := by
  rw [execRep, if_neg (by omega), State.fetchSrc, readOrStuck_of_none _ hm, Flow.outcome_stuck]

/-- The first pass of LIT's loop stops it. -/
theorem execLit_unwritten {s : State} (n : BitVec 7) (hroom : s.pbFill < s.pbSize) (hspan : s.srcPc < s.srcLen)
    (hm : memRead s.src s.srcPc = none) : execLit n s = .fault (.unwritten .src s.srcPc) := by
  have hpass : litPass 0 s = .stuck (.unwritten .src s.srcPc) := by
    rw [litPass, if_neg (by omega), if_neg (by omega), State.fetchSrc, readOrStuck_of_none _ hm]
  rw [execLit, litCount, forEach, hpass, Flow.andThen_stuck, Flow.outcome_stuck]

/-- The first pass of UNPACK.RAW's loop stops it. -/
theorem execUnpackRaw_unwritten {s : State} (hspan : 0 < s.srcLen) (hroom : 0 < s.pbSize)
    (hm : memRead s.src 0 = none) : execUnpackRaw s = .fault (.unwritten .src 0) := by
  have hpass : rawPass 0 s = .stuck (.unwritten .src 0) := readOrStuck_of_none _ hm
  obtain ⟨n, hn⟩ : ∃ n, min s.srcLen s.pbSize = n + 1 := ⟨min s.srcLen s.pbSize - 1, by omega⟩
  simp only [execUnpackRaw, hn, forEach, hpass, Flow.andThen_stuck, Flow.outcome_stuck]

theorem pixelStep_unwritten {s : State} (hp : s.pix < s.npix) (hm : memRead s.cb s.pix = none) :
    pixelStep s = .fault (.unwritten .cb s.pix) := by
  simp only [pixelStep, if_pos hp, hm]

theorem execFbRead_unwritten {s : State} {k : Nat} (hd : s.phase = .done) (hk : k < s.npix)
    (hm : memRead s.fb k = none) : execFbRead k s = .fault (.unwritten .fb k) := by
  rw [execFbRead, if_pos ⟨hd, hk⟩, readOrStuck_of_none _ hm, Flow.outcome_stuck]

/-- The HAM decoder rejects only a modify code at a width above 8. -/
theorem decodeHam_error_iff (n b : Nat) (c : Byte) (why : Reject) :
    decodeHam n b c = .error why ↔ n ≤ c.toNat ∧ 8 < b ∧ why = .widthAbove8 := by
  unfold decodeHam
  split_ifs with hc hb
  · exact ⟨nofun, fun h => absurd hc h.1.not_gt⟩
  · exact ⟨nofun, fun h => absurd hb h.2.1.not_ge⟩
  · exact ⟨fun h => ⟨by omega, by omega, by cases h; rfl⟩, fun h => by rw [h.2.2]⟩

theorem pixelStep_undecodable {s : State} {c : Byte} (hp : s.pix < s.npix) (hm : memRead s.cb s.pix = some c)
    (hham : s.ham = true) (hc : s.wpalCount ≤ c.toNat) (hw : 8 < s.wpalBits) :
    pixelStep s = .refused (.undecodable .widthAbove8) := by
  have hrej : decode s.pixelSpace (.byte c) = .error .widthAbove8 := by
    rw [State.pixelSpace, if_pos (show hamFlag s.mode = true from hham)]
    exact (decodeHam_error_iff _ _ c _).mpr ⟨hc, hw, rfl⟩
  simp only [pixelStep, if_pos hp, hm, runDecoded, hrej]

/-- Only a pattern that does not decode is refused. -/
theorem decode_of_runDecoded_undecodable {sp : Space} {raw : Raw} {s : State} {why : Reject}
    (h : runDecoded sp raw s = .refused (.undecodable why)) : decode sp raw = .error why := by
  cases hd : decode sp raw with
  | ok i => exact absurd h (runDecoded_ne_refused s hd _)
  | error r => rw [runDecoded, hd] at h; cases h; rfl

/-- The pixel loop is the only unit that can meet a pattern the decoder rejects. -/
theorem unitStep_undecodable {s : State} {why : Reject} (h : unitStep s = .refused (.undecodable why)) :
    why = .widthAbove8 ∧ s.stage = .pixels ∧ s.ham = true ∧ 8 < s.wpalBits := by
  unfold unitStep at h
  split at h
  case h_6 hst =>
    unfold pixelStep at h
    split at h
    case isFalse => cases h
    split at h
    case h_2 => cases h
    rename_i c _
    have hrej := decode_of_runDecoded_undecodable h
    unfold State.pixelSpace at hrej
    split at hrej
    · rename_i hham
      obtain ⟨-, hw, hwhy⟩ := (decodeHam_error_iff _ _ c why).mp hrej
      exact ⟨hwhy, hst, hham, hw⟩
    · cases hrej
  case h_2 =>
    unfold rleStep at h
    split at h
    case isFalse => cases h
    split at h
    · cases decode_of_runDecoded_undecodable h
    · cases h
  case h_3 => exact absurd h (exec_ne_refused _ _ _)
  all_goals cases decode_of_runDecoded_undecodable h

/-- A step that is refused for its pattern is a move of the pixel loop. -/
theorem step_undecodable {s : State} {why : Reject} (h : step s = .refused (.undecodable why)) :
    why = .widthAbove8 ∧ s.runs [.pixels] ∧ s.ham = true ∧ 8 < s.wpalBits := by
  cases hd : s.due with
  | some cmd =>
    obtain ⟨rest, -, hs⟩ := step_of_due_some hd
    rw [hs, commandStep] at h
    split at h
    · exact absurd h (exec_ne_refused _ _ _)
    · cases h
  | none =>
    rw [step_of_due_none hd, blockStep] at h
    split at h
    case h_1 hb =>
      obtain ⟨hwhy, hst, hham, hw⟩ := unitStep_undecodable h
      rw [State.tick_phase] at hb
      rw [State.tick_stage] at hst
      rw [State.tick_ham] at hham
      rw [State.tick_wpalBits] at hw
      exact ⟨hwhy, ⟨hb, hd, List.mem_singleton.mpr hst⟩, hham, hw⟩
    all_goals cases h

/-- Settles O47: each unit and FB_READ at an unwritten element, a term that is no host command, and the patterns that
do not decode. -/
theorem stopsAreNamed : Obligations.StopsAreNamed := by
  unfold Obligations.StopsAreNamed
  intro s
  have at_rle : s.runs [.rle] → step s = rleStep s.tick := fun h => by
    obtain ⟨e, hst⟩ := step_of_runs h
    rw [e, unitStep, hst]
  have at_pixels : s.runs [.pixels] → step s = pixelStep s.tick := fun h => by
    obtain ⟨e, hst⟩ := step_of_runs h
    rw [e, unitStep, hst]
  refine ⟨fun h hroom hspan hm => ?_, fun n hspan hm => execRep_unwritten n hspan hm,
    fun n hroom hspan hm => execLit_unwritten n hroom hspan hm,
    fun hspan hroom hm => execUnpackRaw_unwritten hspan hroom hm, fun h hp hm => ?_,
    fun k hd hk hm => execFbRead_unwritten hd hk hm, fun cmd rest hi hc => ?_,
    fun c h hp hm hham hc hw => ?_, fun why => step_undecodable⟩
  · rw [at_rle h, rleStep_unwritten (by simpa using hroom) (by simpa using hspan) (by simpa using hm), State.tick_srcPc]
  · rw [at_pixels h, pixelStep_unwritten (by simpa using hp) (by simpa using hm), State.tick_pix]
  · simp [step, hi, commandStep, hc]
  · rw [at_pixels h, pixelStep_undecodable (c := c) (by simpa using hp) (by simpa using hm) (by simpa using hham)
      (by simpa using hc) (by simpa using hw)]

end Sys2Proof.Machine
end

section
/-!
PROOFS. The memories: no step of a good state stops at an unwritten element, the plane buffer's offsets are dense, the
inputs stay under a running decode, and each buffer has one writer.
-/

namespace Sys2Proof.Machine

/-! ### Flows and outcomes that do not stop -/

/-- The outcome is a next state. -/
abbrev Answers (o : Host.Outcome State Fault Refusal) : Prop := ∃ t, o = .next t

/-- Pseudocode that finds every element it reads, and goes on only to states with `P`. -/
abbrev Flow.Finds (f : Flow) (P : State → Prop) : Prop := f.Ends P (fun _ => True) (fun _ => False)

theorem Flow.Finds.answers {f : Flow} {P : State → Prop} (h : f.Finds P) : Answers f.outcome := by
  obtain ⟨t, ht, -⟩ := Flow.Ends.outcome_next h
  exact ⟨t, ht⟩

/-- Sequencing after pseudocode that finds what it reads. -/
theorem Flow.Finds.andThen {f : Flow} {next : State → Flow} {P Q : State → Prop} (h : f.Finds P)
    (hnext : ∀ u, P u → (next u).Finds Q) : (f.andThen next).Finds Q :=
  Flow.Ends.andThen (h.imp hnext (fun _ h => h) (fun _ h => h))

/-- A unit that ends by an update of the state, such as the move of the sequencer, answers. -/
theorem Flow.Finds.answers_andThen {f : Flow} {P : State → Prop} (h : f.Finds P) (finish : State → State) :
    Answers (f.andThen (fun t => .goesOn (finish t))).outcome :=
  Flow.Finds.answers (h.andThen (Q := fun _ => True) (fun _ _ => trivial))

/-- A read below what has been written goes on. -/
theorem readOrStuck_finds {α : Type} {space : MemSpace} {m : List (Nat × α)} {a n : Nat} {k : α → Flow}
    {P : State → Prop} (hm : memFilled m n = true) (ha : a < n) (hk : ∀ v, (k v).Finds P) :
    (readOrStuck space m a k).Finds P := by
  obtain ⟨v, hv⟩ := memRead_of_memFilled hm ha
  rw [readOrStuck_of_some k hv]
  exact hk v

/-! ### UNPACK finds the span written -/

/-- A pass of LIT reads SRC only below SRC_LEN, and writes neither. -/
theorem litPass_finds (j : Nat) {s : State} (h : memFilled s.src s.srcLen = true) :
    (litPass j s).Finds (fun t => memFilled t.src t.srcLen = true) := by
  unfold litPass State.fetchSrc
  split
  · exact h
  split
  · trivial
  · exact readOrStuck_finds h (by omega) (fun _ => h)

theorem execLit_answers (n : BitVec 7) {s : State} (h : memFilled s.src s.srcLen = true) : Answers (execLit n s) :=
  Flow.Finds.answers (forEach_ends (fun _ t => memFilled t.src t.srcLen = true) _ _ _ 0 s h
    (fun j _ _ _ ht => litPass_finds j ht))

theorem execRep_answers (n : BitVec 7) {s : State} (h : memFilled s.src s.srcLen = true) : Answers (execRep n s) := by
  unfold execRep State.fetchSrc
  split
  · exact ⟨_, rfl⟩
  · exact Flow.Finds.answers (P := fun _ => True) (readOrStuck_finds h (by omega) (fun _ => trivial))

/-- UNPACK.RAW copies at most SRC_LEN bytes. -/
theorem execUnpackRaw_answers {s : State} (h : memFilled s.src s.srcLen = true) : Answers (execUnpackRaw s) := by
  refine Flow.Finds.answers_andThen (P := fun t => memFilled t.src s.srcLen = true)
    (forEach_ends (fun _ t => memFilled t.src s.srcLen = true) _ _ (min s.srcLen s.pbSize) 0 s h ?_) _
  intro a t _ ha ht
  exact readOrStuck_finds ht (by omega) (fun _ => ht)

/-- The selection of UNPACK by COMP. -/
theorem unpackStep_answers {s : State} (h : memFilled s.src s.srcLen = true) (v : Byte) :
    Answers (exec (decodeCompSel v) s) := by
  unfold decodeCompSel
  split
  · exact execUnpackRaw_answers h
  split <;> exact ⟨_, rfl⟩

/-- One pass of UNPACK.RLE's loop: the fetch, and each of the three formats. -/
theorem rleStep_answers {s : State} (h : memFilled s.src s.srcLen = true) : Answers (rleStep s) := by
  unfold rleStep
  split
  · rename_i hgo
    simp only [State.rleGoesOn, Bool.and_eq_true, decide_eq_true_eq] at hgo
    obtain ⟨c, hc⟩ := memRead_of_memFilled h hgo.2
    simp only [hc, runDecoded, decode]
    unfold decodeRle
    split
    · exact ⟨_, rfl⟩
    split
    · exact execLit_answers _ h
    · exact execRep_answers _ h
  · exact ⟨_, rfl⟩

/-! ### DEINT finds the plane bytes and the pixel codes written -/

/-- What DEINT reads has been written: PB below PB_FILL, and CB over the image, whose height is `h`. -/
def PlanesReady (h : U16) (s : State) : Prop :=
  memFilled s.pb s.pbFill = true ∧ memFilled s.cb s.npix = true ∧ s.height = h

theorem PlanesReady.storeCb {h : U16} {s : State} (hs : PlanesReady h s) (k : Nat) (v : Byte) :
    PlanesReady h (s.storeCb k v) := by
  obtain ⟨hpb, hcb, hh⟩ := hs
  exact ⟨hpb, memFilled_memWrite k v hcb, hh⟩

/-- A place of a higher row comes after every place of a lower one, in rows of `n`. -/
theorem mul_add_lt_of_lt {a a' n i : Nat} (h : a < a') (hi : i < n) (i' : Nat) : a * n + i < a' * n + i' := by
  have hrow := Nat.mul_le_mul_right n (Nat.succ_le_of_lt h)
  rw [Nat.succ_mul] at hrow
  omega

/-- A column of a row of the image is a pixel of the image. -/
theorem pixel_lt_npix {s : State} {y x : Nat} (hy : y < s.height.toNat) (hx : x < s.width.toNat) :
    y * s.width.toNat + x < s.npix := by
  rw [State.npix, Nat.mul_comm s.width.toNat]
  exact mul_add_lt_of_lt hy hx 0

theorem deintBit_finds {h : U16} {s : State} {y : Nat} (hy : y < h.toNat) (p i : Nat) (v : Byte) (k : Nat)
    (hs : PlanesReady h s) : (deintBit y p i v k s).Finds (PlanesReady h) := by
  have ⟨_, hcb, hh⟩ := hs
  unfold deintBit
  dsimp only
  split
  · rename_i hcol
    exact readOrStuck_finds hcb (pixel_lt_npix (hh ▸ hy) hcol.1) (fun _ => hs.storeCb _ _)
  · exact hs

/-- A plane byte beyond PB_FILL is never read: it faults or counts as 0 (R153). -/
theorem deintByte_finds {h : U16} {s : State} {y : Nat} (hy : y < h.toNat) (p i : Nat) (hs : PlanesReady h s) :
    (deintByte y p i s).Finds (PlanesReady h) := by
  have bits : ∀ v, (forEach (deintBit y p i v) 8 0 s).Finds (PlanesReady h) := fun v =>
    forEach_ends (fun _ => PlanesReady h) _ _ 8 0 s hs (fun k _ _ _ hu => deintBit_finds hy p i v k hu)
  unfold deintByte State.pbyte
  split
  · rename_i hfill
    exact readOrStuck_finds hs.1 hfill bits
  split
  · trivial
  · exact bits 0

theorem deintRow_finds {h : U16} {s : State} {y : Nat} (hy : y < h.toNat) (hs : PlanesReady h s) :
    (deintRow y s).Finds (PlanesReady h) :=
  forEach_ends (fun _ => PlanesReady h) _ _ _ 0 s hs (fun p _ _ _ hu =>
    forEach_ends (fun _ => PlanesReady h) _ _ _ 0 _ hu (fun i _ _ _ hv => deintByte_finds hy p i hv))

/-- The clearing pass makes CB ready, and the rows find it so. -/
theorem execDeint_answers {s : State} (hpb : memFilled s.pb s.pbFill = true) : Answers (execDeint s) := by
  have clear : (forEach deintClear s.npix 0 s).Finds (PlanesReady s.height) := by
    refine Flow.Ends.imp (forEach_ends (fun k u => memFilled u.cb k = true ∧ CodesOnly s u) (fun _ => True)
      (fun _ => False) s.npix 0 s ⟨rfl, .refl s⟩ ?_) ?_ (fun _ h => h) (fun _ h => h)
    · rintro k u - - ⟨hcb, honly⟩
      exact ⟨memFilled_memWrite_next 0 hcb, honly.storeCb k 0⟩
    · rintro u ⟨hcb, cb, rfl⟩
      rw [Nat.zero_add] at hcb
      exact ⟨hpb, hcb, rfl⟩
  have rows : ∀ u, PlanesReady s.height u → (forEach deintRow u.height.toNat 0 u).Finds (PlanesReady s.height) :=
    fun u hu => forEach_ends (fun _ => PlanesReady s.height) _ _ _ 0 u hu
      (fun y _ _ hy hv => deintRow_finds (by rw [← hu.2.2]; omega) hv)
  exact (clear.andThen rows).answers_andThen _

/-! ### FIX and COMP -/

/-- FIX reads no memory. -/
theorem fixStep_answers (m : U32) (s : State) : Answers (exec (decodeFixSel m) s) := by
  have cull : s.copyPalette.hamCull.Finds (fun _ => True) := by
    unfold State.hamCull
    dsimp only
    split
    · split <;> trivial
    · trivial
  unfold decodeFixSel
  split
  · exact ⟨_, rfl⟩
  split
  · exact cull.answers_andThen _
  · exact ⟨_, rfl⟩

/-- Nor do the entries of COMP. -/
theorem compStep_answers (m : U32) (s : State) : Answers (exec (decodeCompositorSel m) s) := by
  unfold decodeCompositorSel
  split
  · simp only [exec, execCompHam]
    split <;> exact ⟨_, rfl⟩
  · exact ⟨_, rfl⟩

/-- No pixel code reads a memory. -/
theorem decodeModify_answers (b : Nat) (c : Byte) (s : State) : Answers (exec (decodeModify b c) s) := by
  unfold decodeModify
  split
  · exact ⟨_, rfl⟩
  split <;> exact ⟨_, rfl⟩

/-- At a width of at most 8 in HAM mode every pixel code decodes, to an instruction that answers. -/
theorem runDecoded_pixel_answers {s : State} (hw : s.ham = true → s.wpalBits ≤ 8) (c : Byte) (t : State) :
    Answers (runDecoded s.pixelSpace (.byte c) t) := by
  unfold State.pixelSpace
  split
  · rename_i hham
    simp only [runDecoded, decode, decodeHam, if_pos (hw hham)]
    by_cases hc : c.toNat < s.wpalCount
    · rw [if_pos hc]; exact ⟨_, rfl⟩
    · rw [if_neg hc]; exact decodeModify_answers _ c t
  · simp only [runDecoded, decode, exec, execIdx]
    split <;> exact ⟨_, rfl⟩

theorem pixelStep_answers {s : State} (hcb : memFilled s.cb s.npix = true) (hw : s.ham = true → s.wpalBits ≤ 8) :
    Answers (pixelStep s) := by
  unfold pixelStep
  split
  · rename_i hp
    obtain ⟨c, hc⟩ := memRead_of_memFilled hcb hp
    simp only [hc]
    exact runDecoded_pixel_answers hw c _
  · exact ⟨_, rfl⟩

/-! ### Every step of a good state answers -/

/-- Each unit finds what the invariant says it does. -/
theorem unitStep_answers {s : State} (h : BusyInv s) : Answers (unitStep s) := by
  obtain ⟨⟨-, -, ⟨-, hsrc, -, -, hpb⟩, -, -, hunit, -⟩, hb⟩ := h
  obtain ⟨hcb, hloop⟩ := hunit hb
  unfold unitStep
  split
  · exact unpackStep_answers hsrc s.comp
  · exact rleStep_answers hsrc
  · exact execDeint_answers hpb
  · exact fixStep_answers s.mode s
  · exact compStep_answers s.mode s
  · rename_i hst
    obtain ⟨-, -, hw⟩ := hloop hst
    exact pixelStep_answers (hcb (.inr (.inr hst))) hw

/-- FB_READ reads only in DONE, where the image is whole. -/
theorem execFbRead_answers {s : State} (himg : ImageInv s) (k : Nat) : Answers (execFbRead k s) := by
  unfold execFbRead
  split
  · rename_i hread
    obtain ⟨px, hpx, -⟩ := (imageFilled_iff _ _).mp (himg hread.1) k hread.2
    rw [readOrStuck_of_some _ hpx]
    exact ⟨_, rfl⟩
  · exact ⟨_, rfl⟩

/-- FB_READ is the only host command that reads a memory. -/
theorem command_answers {cmd : Instr} {s : State} (hc : cmd.isHostCommand = true) (himg : ImageInv s) :
    Answers (exec cmd s) := by
  cases cmd with
  | reset | hdrLoad | modeLoad | palClear | palPush | srcClear | srcPush => exact ⟨_, rfl⟩
  | start =>
    simp only [exec, execStart, execUnpackUnsupported]
    split_ifs <;> exact ⟨_, rfl⟩
  | regRead no =>
    simp only [exec, execRegRead]
    split <;> exact ⟨_, rfl⟩
  | fbRead k => exact execFbRead_answers himg k
  | lit | rep | rsvd | idx | hamSet | hamModG | hamModB | hamModR | unpackRaw | unpackRle | unpackUnsupported | deint
  | fixEhb | fixHamcull | fixPass | compDirect | compHam => cases hc

/-- Settles O54: what arrives is a host command, which answers; a running unit finds what it reads; the other phases
wait. -/
theorem stepNeverStopsInGoodStates : Obligations.StepNeverStopsInGoodStates := by
  unfold Obligations.StepNeverStopsInGoodStates
  intro s h
  cases hd : s.due with
  | some cmd =>
    obtain ⟨rest, hi, hs⟩ := step_of_due_some hd
    have ⟨_, _, _, _, _, _, himg, hbox⟩ := h
    rw [InboxInv, hi, List.all_cons, Bool.and_eq_true] at hbox
    rw [hs, commandStep, if_pos hbox.1]
    exact command_answers hbox.1 himg
  | none =>
    rw [step_of_due_none hd, blockStep]
    split
    · rename_i hb
      exact unitStep_answers ⟨stateInv_tick h, hb⟩
    all_goals exact ⟨_, rfl⟩

/-! ### The offsets of the plane buffer -/

/-- PBOFF as a two-level row index: plane row `y * NPLANES + p`, byte `i`. -/
theorem pbOff_eq (s : State) (y p i : Nat) : s.pbOff y p i = (y * s.nplanes.toNat + p) * s.pitch + i := by
  unfold State.pbOff
  ring

theorem pbSize_eq (s : State) : s.pbSize = s.height.toNat * s.nplanes.toNat * s.pitch := by
  unfold State.pbSize
  ring

/-- R68's order. -/
theorem pbOff_lt_pbOff {s : State} {y p i y' p' i' : Nat} (hp : p < s.nplanes.toNat) (hi : i < s.pitch)
    (h : y < y' ∨ (y = y' ∧ (p < p' ∨ (p = p' ∧ i < i')))) : s.pbOff y p i < s.pbOff y' p' i' := by
  rw [pbOff_eq, pbOff_eq]
  rcases h with hy | ⟨rfl, hpp | ⟨rfl, hii⟩⟩
  · exact mul_add_lt_of_lt (mul_add_lt_of_lt hy hp p') hi i'
  · exact mul_add_lt_of_lt (Nat.add_lt_add_left hpp _) hi i'
  · exact Nat.add_lt_add_left hii _

/-- Every offset of a place lies in the buffer: the buffer's end is where scanline HEIGHT would start. -/
theorem pbOff_lt_pbSize {s : State} {y p i : Nat} (hy : y < s.height.toNat) (hp : p < s.nplanes.toNat)
    (hi : i < s.pitch) : s.pbOff y p i < s.pbSize := by
  have hend : s.pbSize = s.pbOff s.height.toNat 0 0 := by rw [pbOff_eq, pbSize_eq, Nat.add_zero, Nat.add_zero]
  rw [hend]
  exact pbOff_lt_pbOff hp hi (.inl hy)

/-- The place of an index, by division with PITCH and with NPLANES. -/
theorem exists_pbOff_eq {s : State} {a : Nat} (ha : a < s.pbSize) :
    ∃ y p i, y < s.height.toNat ∧ p < s.nplanes.toNat ∧ i < s.pitch ∧ a = s.pbOff y p i := by
  rw [pbSize_eq] at ha
  have hpitch : 0 < s.pitch := Nat.pos_of_mul_pos_left (Nat.zero_lt_of_lt ha)
  have hrow : a / s.pitch < s.height.toNat * s.nplanes.toNat := Nat.div_lt_of_lt_mul (by rwa [Nat.mul_comm])
  have hplanes : 0 < s.nplanes.toNat := Nat.pos_of_mul_pos_left (Nat.zero_lt_of_lt hrow)
  refine ⟨a / s.pitch / s.nplanes.toNat, a / s.pitch % s.nplanes.toNat, a % s.pitch,
    Nat.div_lt_of_lt_mul (by rwa [Nat.mul_comm]), Nat.mod_lt _ hplanes, Nat.mod_lt _ hpitch, ?_⟩
  rw [pbOff_eq, Nat.div_add_mod', Nat.div_add_mod']

/-- Settles O26: PBOFF numbers the places of HEIGHT times NPLANES plane rows of PITCH bytes. -/
theorem planeOffsetsAreOrderedAndDense : Obligations.PlaneOffsetsAreOrderedAndDense := by
  unfold Obligations.PlaneOffsetsAreOrderedAndDense
  refine fun s => ⟨fun y p i y' p' i' hp hi _ _ h => pbOff_lt_pbOff hp hi h, fun a => ⟨exists_pbOff_eq, ?_⟩⟩
  rintro ⟨y, p, i, hy, hp, hi, rfl⟩
  exact pbOff_lt_pbSize hy hp hi

/-! ### The inputs of a decode -/

theorem LoadFrame.cfg {cmd : Instr} {s t : State} (h : LoadFrame cmd s t) : t.cfg = s.cfg := by
  rcases h with ⟨_, _, _, _, rfl⟩ | ⟨_, rfl⟩ | ⟨-, rfl⟩ | ⟨r, g, b, rfl⟩ | ⟨-, rfl⟩ | ⟨v, rfl⟩
  case inr.inr.inr.inl => unfold State.palAppend; split <;> rfl
  case inr.inr.inr.inr.inr => unfold State.srcAppend; split <;> rfl
  all_goals rfl

/-- The header, MODE, the palette and the span are the same, with the flags START tests. -/
def DecodeInputsKept (s t : State) : Prop :=
  t.width = s.width ∧ t.height = s.height ∧ t.nplanes = s.nplanes ∧ t.comp = s.comp ∧ t.mode = s.mode ∧
    t.hdrValid = s.hdrValid ∧ t.palOvf = s.palOvf ∧ t.srcOvf = s.srcOvf ∧ t.pal = s.pal ∧
    t.palCount = s.palCount ∧ t.src = s.src ∧ t.srcLen = s.srcLen

theorem InputsKept.decodeInputs {s t : State} (h : InputsKept s t) : t.cfg = s.cfg ∧ DecodeInputsKept s t := by
  obtain ⟨hcfg, hw, hh, hn, hco, hm, hpal, hpc, hsrc, hsl, hhv, hpo, hso, -⟩ := h
  exact ⟨hcfg, hw, hh, hn, hco, hm, hhv, hpo, hso, hpal, hpc, hsrc, hsl⟩

/-- Settles O49: units and waits write no input, outside IDLE a command is a read or is dropped, and not even RESET or a
load command writes the parameters. -/
theorem inputsChangeOnlyByCommandsInIdle : Obligations.InputsChangeOnlyByCommandsInIdle := by
  unfold Obligations.InputsChangeOnlyByCommandsInIdle
  intro s t h
  change t.cfg = s.cfg ∧ (s.due ≠ some .reset → s.phase ≠ .idle ∨ s.due = none → DecodeInputsKept s t)
  have kept (hk : InputsKept s t) : t.cfg = s.cfg ∧ (s.due ≠ some .reset → s.phase ≠ .idle ∨ s.due = none →
      DecodeInputsKept s t) := hk.decodeInputs.imp id (fun hin _ _ => hin)
  rcases step_cases h with ⟨cmd, rest, -, hd, hc, he⟩ | ⟨-, -, hu⟩ | ⟨-, -, rfl⟩
  · rcases command_cases hc he with ⟨rfl, rfl⟩ | ⟨-, _, _, _, rfl, -⟩ | ⟨-, -, hidle, hl⟩ | ⟨-, -, hs⟩
    · exact ⟨rfl, fun hr => absurd hd hr⟩
    · exact ⟨rfl, fun _ _ => (InputsKept.refl s).decodeInputs.2⟩
    · refine ⟨hl.cfg, fun _ hquiet => ?_⟩
      rcases hquiet with hn | hn
      · exact absurd hidle hn
      · rw [hd] at hn; cases hn
    · exact kept hs.inputsKept
  · exact kept (unitStep_inputsKept hu).of_tick
  · exact kept (InputsKept.refl _).of_tick

/-! ### The writers of the buffers -/

/-- What the units write is the same. -/
def BuffersKept (s t : State) : Prop :=
  t.pb = s.pb ∧ t.cb = s.cb ∧ t.wpal = s.wpal ∧ t.fb = s.fb ∧ t.prev = s.prev

theorem BuffersKept.refl (s : State) : BuffersKept s s := ⟨rfl, rfl, rfl, rfl, rfl⟩

theorem UnitEnds.buffersKept {s t : State} (h : UnitEnds s t) : BuffersKept s t := by
  rcases h with ⟨_, rfl⟩ | ⟨_, _, rfl⟩ <;> exact .refl s

theorem LoadFrame.buffersKept {cmd : Instr} {s t : State} (h : LoadFrame cmd s t) : BuffersKept s t := by
  rcases h with ⟨_, _, _, _, rfl⟩ | ⟨_, rfl⟩ | ⟨-, rfl⟩ | ⟨r, g, b, rfl⟩ | ⟨-, rfl⟩ | ⟨v, rfl⟩
  case inr.inr.inr.inl => unfold State.palAppend; split <;> exact .refl s
  case inr.inr.inr.inr.inr => unfold State.srcAppend; split <;> exact .refl s
  all_goals exact .refl s

/-- Each buffer changes only where its writer runs; PREV also where START arrives, and not in direct mode otherwise. -/
def WrittenOnlyBy (runs : List Stage → Prop) (starts : Prop) (s t : State) : Prop :=
  (¬ runs [.unpack, .rle] → t.pb = s.pb) ∧ (¬ runs [.deint] → t.cb = s.cb) ∧ (¬ runs [.fix] → t.wpal = s.wpal) ∧
    (¬ runs [.pixels] → t.fb = s.fb) ∧ (¬ runs [.pixels] → ¬ starts → t.prev = s.prev) ∧
    (s.ham = false → ¬ starts → t.prev = s.prev)

theorem BuffersKept.writtenOnlyBy {runs : List Stage → Prop} {starts : Prop} {s t : State} (h : BuffersKept s t) :
    WrittenOnlyBy runs starts s t := by
  obtain ⟨hpb, hcb, hwpal, hfb, hprev⟩ := h
  exact ⟨fun _ => hpb, fun _ => hcb, fun _ => hwpal, fun _ => hfb, fun _ _ => hprev, fun _ _ => hprev⟩

/-- A running unit writes its own buffer only. -/
theorem unitStep_writtenOnlyBy {runs : List Stage → Prop} {starts : Prop} {s t : State}
    (hruns : ∀ stages, s.stage ∈ stages → runs stages) (h : unitStep s = .next t) : WrittenOnlyBy runs starts s t := by
  rcases unitStep_cases h with ⟨hst, _, _, _, hu⟩ | ⟨hst, _, hu⟩ | ⟨hst, _, _, hu⟩ | ⟨-, _, hu⟩ |
    ⟨hst, -, ⟨_, _, _, hu⟩, hdirect⟩ | ⟨-, -, rfl⟩
  · obtain ⟨-, hcb, hwpal, hfb, hprev⟩ := hu.buffersKept
    exact ⟨absurd (hruns _ hst), fun _ => hcb, fun _ => hwpal, fun _ => hfb, fun _ _ => hprev, fun _ _ => hprev⟩
  · obtain ⟨hpb, -, hwpal, hfb, hprev⟩ := hu.buffersKept
    exact ⟨fun _ => hpb, absurd (hruns _ (by simp [hst])), fun _ => hwpal, fun _ => hfb, fun _ _ => hprev,
      fun _ _ => hprev⟩
  · obtain ⟨hpb, hcb, -, hfb, hprev⟩ := hu.buffersKept
    exact ⟨fun _ => hpb, fun _ => hcb, absurd (hruns _ (by simp [hst])), fun _ => hfb, fun _ _ => hprev,
      fun _ _ => hprev⟩
  · exact BuffersKept.writtenOnlyBy hu.buffersKept
  · obtain ⟨hpb, hcb, hwpal, -, -⟩ := hu.buffersKept
    have hpixels := hruns [.pixels] (by simp [hst])
    exact ⟨fun _ => hpb, fun _ => hcb, fun _ => hwpal, absurd hpixels, absurd hpixels, fun hn _ => hdirect hn⟩
  · exact BuffersKept.writtenOnlyBy (.refl s)

/-- Settles O50: a command other than RESET writes no buffer, but START sets PREV; a running unit writes its own. -/
theorem buffersHaveOneWriter : Obligations.BuffersHaveOneWriter := by
  unfold Obligations.BuffersHaveOneWriter
  intro s t h hr
  change WrittenOnlyBy s.runs (s.due = some .start) s t
  rcases step_cases h with ⟨cmd, rest, -, hd, hc, he⟩ | ⟨hd, hb, hu⟩ | ⟨-, -, rfl⟩
  · rcases command_cases hc he with ⟨rfl, -⟩ | ⟨-, _, _, _, rfl, -⟩ | ⟨-, -, -, hl⟩ | ⟨rfl, -, rfl | ⟨_, _, rfl⟩⟩
    · exact absurd hd hr
    · exact BuffersKept.writtenOnlyBy (.refl s)
    · exact BuffersKept.writtenOnlyBy hl.buffersKept
    · exact ⟨fun _ => rfl, fun _ => rfl, fun _ => rfl, fun _ => rfl, fun _ hn => absurd hd hn, fun _ hn => absurd hd hn⟩
    · exact BuffersKept.writtenOnlyBy (.refl s)
  · have hw := unitStep_writtenOnlyBy (runs := s.runs) (starts := s.due = some .start)
      (fun stages hst => ⟨hb, hd, s.tick_stage ▸ hst⟩) hu
    rw [State.tick_eq] at hw
    exact hw
  · rw [State.tick_eq]
    exact BuffersKept.writtenOnlyBy (.refl s)

end Sys2Proof.Machine
end

section
/-!
PROOFS. The encodings: what the decoder answers by the value of its pattern, the places of CTL and VAL in a modify code,
and that decoder, encoder and assembler agree.
-/

namespace Sys2Proof.Machine

/-! ### The RLE control byte -/

theorem toNat_countField (c : Byte) : (c.extractLsb' 0 7).toNat = c.toNat % 128 := by
  rw [BitVec.extractLsb'_toNat, Nat.shiftRight_zero]

theorem toNat_litByte (n : BitVec 7) : (0#1 ++ n : Byte).toNat = n.toNat := by
  rw [BitVec.toNat_append]
  simp

theorem toNat_repByte (n : BitVec 7) : (1#1 ++ n : Byte).toNat = 128 + n.toNat := by
  rw [BitVec.toNat_append, ← Nat.shiftLeft_add_eq_or_of_lt n.isLt]
  rfl

/-- Every control byte is of one kind, by its value (R84). -/
theorem decodeRle_cases (c : Byte) :
    (c = 0x80 ∧ decodeRle c = .rsvd) ∨ (c.toNat < 128 ∧ decodeRle c = .lit (c.extractLsb' 0 7)) ∨
      (128 < c.toNat ∧ decodeRle c = .rep (c.extractLsb' 0 7)) := by
  unfold decodeRle
  split_ifs with hx hl
  · exact .inl ⟨hx, rfl⟩
  · exact .inr (.inl ⟨Nat.lt_succ_of_le hl, rfl⟩)
  · have hne : c.toNat ≠ 128 := fun h => hx (BitVec.eq_of_toNat_eq h)
    have hgt : ¬ c.toNat ≤ 127 := hl
    exact .inr (.inr ⟨by omega, rfl⟩)

theorem decodeRle_of_lt {c : Byte} (h : c.toNat < 128) : decodeRle c = .lit (c.extractLsb' 0 7) := by
  rcases decodeRle_cases c with ⟨rfl, -⟩ | ⟨-, e⟩ | ⟨hc, -⟩
  · exact absurd h (by decide)
  · exact e
  · omega

theorem decodeRle_of_gt {c : Byte} (h : 128 < c.toNat) : decodeRle c = .rep (c.extractLsb' 0 7) := by
  rcases decodeRle_cases c with ⟨rfl, -⟩ | ⟨hc, -⟩ | ⟨-, e⟩
  · exact absurd h (by decide)
  · omega
  · exact e

/-- A control byte is its bit 7 and its count field: 0 for LIT. -/
theorem litByte_countField {c : Byte} (h : c.toNat < 128) : (0#1 ++ c.extractLsb' 0 7 : Byte) = c := by
  refine BitVec.eq_of_toNat_eq ?_
  rw [toNat_litByte, toNat_countField]
  omega

/-- And 1 for REP. -/
theorem repByte_countField {c : Byte} (h : 128 < c.toNat) : (1#1 ++ c.extractLsb' 0 7 : Byte) = c := by
  have hc := c.isLt
  refine BitVec.eq_of_toNat_eq ?_
  rw [toNat_repByte, toNat_countField]
  omega

theorem decodeRle_litByte (n : BitVec 7) : decodeRle (0#1 ++ n) = .lit n := by
  rw [decodeRle_of_lt ((toNat_litByte n).trans_lt n.isLt), BitVec.extractLsb'_append_eq_right]

theorem decodeRle_repByte {n : BitVec 7} (h : n ≠ 0) : decodeRle (1#1 ++ n) = .rep n := by
  have hn : n.toNat ≠ 0 := fun e => h (BitVec.eq_of_toNat_eq e)
  rw [decodeRle_of_gt (by rw [toNat_repByte]; omega), BitVec.extractLsb'_append_eq_right]

theorem decodeRle_wellFormed (c : Byte) : (decodeRle c).wellFormed = true := by
  rcases decodeRle_cases c with ⟨-, e⟩ | ⟨-, e⟩ | ⟨hc, e⟩ <;> rw [e]
  · rfl
  · rfl
  · refine decide_eq_true fun hz => ?_
    have hfield := toNat_countField c
    have hlt := c.isLt
    rw [hz] at hfield
    change 0 = c.toNat % 128 at hfield
    omega

theorem encode_decodeRle (c : Byte) : encode (decodeRle c) = some (.byte c) := by
  rcases decodeRle_cases c with ⟨rfl, e⟩ | ⟨hc, e⟩ | ⟨hc, e⟩ <;> rw [e]
  · rfl
  · rw [encode, litByte_countField hc]
  · rw [encode, repByte_countField hc]

/-! ### Modify codes -/

theorem modifyOk_iff (b ctl : Nat) (val : Byte) :
    modifyOk b ctl val = true ↔ b ≤ 8 ∧ val.toNat < 2 ^ b ∧ ctl * 2 ^ b < 256 := by
  simp [modifyOk, and_assoc]

/-- The byte is a whole number of places of size `2 ^ b`. -/
theorem two_pow_mul_two_pow_sub {b : Nat} (hb : b ≤ 8) : 2 ^ b * 2 ^ (8 - b) = 256 := by
  rw [← Nat.pow_add, Nat.add_sub_cancel' hb]

/-- CTL and VAL of a row that exists fit in the byte together. -/
theorem toNat_modifyByte {b ctl : Nat} {val : Byte} (h : modifyOk b ctl val = true) :
    (modifyByte b ctl val).toNat = ctl * 2 ^ b + val.toNat := by
  obtain ⟨hb, hval, hctl⟩ := (modifyOk_iff b ctl val).mp h
  have hfits : ctl * 2 ^ b + val.toNat < 256 := by
    rw [← two_pow_mul_two_pow_sub hb, Nat.mul_comm (2 ^ b)] at hctl ⊢
    exact mul_add_lt_of_lt (i' := 0) (Nat.lt_of_mul_lt_mul_right hctl) hval
  exact Nat.mod_eq_of_lt hfits

theorem toNat_valOf (b : Nat) (c : Byte) : (valOf b c).toNat = c.toNat % 2 ^ b :=
  Nat.mod_eq_of_lt ((Nat.mod_le _ _).trans_lt c.isLt)

theorem ctlOf_lt (b : Nat) (c : Byte) : ctlOf b c < 4 := Nat.mod_lt _ (by decide)

theorem ctlOf_modifyByte {b ctl : Nat} {val : Byte} (h : modifyOk b ctl val = true) (hctl : ctl < 4) :
    ctlOf b (modifyByte b ctl val) = ctl := by
  obtain ⟨-, hval, -⟩ := (modifyOk_iff b ctl val).mp h
  rw [ctlOf, toNat_modifyByte h, Nat.mul_comm, Nat.mul_add_div (Nat.two_pow_pos b), Nat.div_eq_of_lt hval]
  exact Nat.mod_eq_of_lt hctl

theorem valOf_modifyByte {b ctl : Nat} {val : Byte} (h : modifyOk b ctl val = true) :
    valOf b (modifyByte b ctl val) = val := by
  obtain ⟨-, hval, -⟩ := (modifyOk_iff b ctl val).mp h
  refine BitVec.eq_of_toNat_eq ?_
  rw [toNat_valOf, toNat_modifyByte h, Nat.mul_add_mod', Nat.mod_eq_of_lt hval]

/-- The row of a modify code's own control and value exists. -/
theorem modifyOk_ctlOf {b : Nat} (hb : b ≤ 8) (c : Byte) : modifyOk b (ctlOf b c) (valOf b c) = true := by
  have hctl : ctlOf b c * 2 ^ b ≤ c.toNat :=
    (Nat.mul_le_mul_right _ (Nat.mod_le _ _)).trans (Nat.div_mul_le_self _ _)
  refine (modifyOk_iff _ _ _).mpr ⟨hb, ?_, hctl.trans_lt c.isLt⟩
  rw [toNat_valOf]
  exact Nat.mod_lt _ (Nat.two_pow_pos b)

/-- Every modify code is of one colour, with the control value that encodes it (R88). -/
theorem decodeModify_cases (b : Nat) (c : Byte) :
    (ctlOf b c = Const.ctlBlue ∧ decodeModify b c = .hamModB b (valOf b c)) ∨
    (ctlOf b c = Const.ctlRed ∧ decodeModify b c = .hamModR b (valOf b c)) ∨
      ∃ three, ctlOf b c = modGCtl three ∧ decodeModify b c = .hamModG b three (valOf b c) := by
  have hlt := ctlOf_lt b c
  unfold decodeModify
  split_ifs with hblue hred
  · exact .inl ⟨hblue, rfl⟩
  · exact .inr (.inl ⟨hred, rfl⟩)
  · refine .inr (.inr ⟨_, ?_, rfl⟩)
    unfold Const.ctlBlue at hblue
    unfold Const.ctlRed at hred
    by_cases hzero : ctlOf b c = Const.ctlGreen
    · simp [hzero, modGCtl]
    · rw [decide_eq_true hzero]
      change ctlOf b c = 3
      change ¬ ctlOf b c = 0 at hzero
      omega

theorem decodeModify_wellFormed {b : Nat} (hb : b ≤ 8) (c : Byte) : (decodeModify b c).wellFormed = true := by
  have hok := modifyOk_ctlOf hb c
  rcases decodeModify_cases b c with ⟨hctl, e⟩ | ⟨hctl, e⟩ | ⟨three, hctl, e⟩ <;>
    · rw [hctl] at hok
      rw [e]
      exact hok

theorem decodeModify_modifyByte_blue {b : Nat} {val : Byte} (h : modifyOk b Const.ctlBlue val = true) :
    decodeModify b (modifyByte b Const.ctlBlue val) = .hamModB b val := by
  rw [decodeModify, ctlOf_modifyByte h (by decide), valOf_modifyByte h, if_pos rfl]

theorem decodeModify_modifyByte_red {b : Nat} {val : Byte} (h : modifyOk b Const.ctlRed val = true) :
    decodeModify b (modifyByte b Const.ctlRed val) = .hamModR b val := by
  rw [decodeModify, ctlOf_modifyByte h (by decide), valOf_modifyByte h, if_neg (by decide), if_pos rfl]

theorem decodeModify_modifyByte_green {b : Nat} {three : Bool} {val : Byte}
    (h : modifyOk b (modGCtl three) val = true) :
    decodeModify b (modifyByte b (modGCtl three) val) = .hamModG b three val := by
  rw [decodeModify, ctlOf_modifyByte h (by cases three <;> decide), valOf_modifyByte h]
  cases three <;> rfl

/-- A code at or above WPAL_COUNT is read as a modify code of a width that fits. -/
theorem decodeHam_of_ge {n b : Nat} {c : Byte} (hc : n ≤ c.toNat) (hb : b ≤ 8) :
    decodeHam n b c = .ok (decodeModify b c) := by
  rw [decodeHam, if_neg (by omega), if_pos hb]

/-- The pattern of a modify code that belongs to a HAM space decodes as the modify code of that width. -/
theorem decode_modifyByte {n b b' ctl : Nat} {val : Byte} {i : Instr} (hok : modifyOk b' ctl val = true)
    (hs : (decide (b' = b) && decide (n ≤ (modifyByte b' ctl val).toNat)) = true)
    (hi : decodeModify b' (modifyByte b' ctl val) = i) :
    decode (.pixelHam n b) (.byte (modifyByte b' ctl val)) = .ok i := by
  simp only [Bool.and_eq_true, decide_eq_true_eq] at hs
  obtain ⟨rfl, hn⟩ := hs
  obtain ⟨hb, -, -⟩ := (modifyOk_iff _ _ _).mp hok
  rw [decode, decodeHam_of_ge hn hb, hi]

/-! ### The other spaces -/

/-- Every value of COMP selects one unit (R90). -/
theorem decodeCompSel_cases (v : Byte) :
    (v = Const.compNone ∧ decodeCompSel v = .unpackRaw) ∨ (v = Const.compRle ∧ decodeCompSel v = .unpackRle) ∨
      ((v ≠ Const.compNone ∧ v ≠ Const.compRle) ∧ decodeCompSel v = .unpackUnsupported v) := by
  unfold decodeCompSel
  split_ifs with hnone hrle
  · exact .inl ⟨hnone, rfl⟩
  · exact .inr (.inl ⟨hrle, rfl⟩)
  · exact .inr (.inr ⟨⟨hnone, hrle⟩, rfl⟩)

theorem decodeCompSel_unsupported {v : Byte} (h : (Instr.unpackUnsupported v).wellFormed = true) :
    decodeCompSel v = .unpackUnsupported v := by
  simp only [Instr.wellFormed, Bool.and_eq_true, decide_eq_true_eq] at h
  rw [decodeCompSel, if_neg h.1, if_neg h.2]

theorem decodeCompSel_wellFormed (v : Byte) : (decodeCompSel v).wellFormed = true := by
  rcases decodeCompSel_cases v with ⟨-, e⟩ | ⟨-, e⟩ | ⟨hv, e⟩ <;> rw [e]
  · rfl
  · rfl
  · simpa [Instr.wellFormed] using hv

theorem encode_decodeCompSel (v : Byte) : encode (decodeCompSel v) = some (.byte v) := by
  rcases decodeCompSel_cases v with ⟨rfl, e⟩ | ⟨rfl, e⟩ | ⟨-, e⟩ <;> rw [e] <;> rfl

theorem decodeFixSel_wellFormed (m : U32) : (decodeFixSel m).wellFormed = true := by
  unfold decodeFixSel
  split_ifs <;> rfl

theorem decodeCompositorSel_wellFormed (m : U32) : (decodeCompositorSel m).wellFormed = true := by
  unfold decodeCompositorSel
  split_ifs <;> rfl

/-! ### Decoder and encoder agree -/

/-- Settles O43: space by space, the instructions that belong to it. -/
theorem decodeOfEncodeIsTheInstruction : Obligations.DecodeOfEncodeIsTheInstruction := by
  unfold Obligations.DecodeOfEncodeIsTheInstruction
  intro sp i hw hs
  cases sp with
  | rle =>
    match i, hs with
    | .lit n, _ => exact ⟨_, rfl, congrArg _ (decodeRle_litByte n)⟩
    | .rep n, _ => exact ⟨_, rfl, congrArg _ (decodeRle_repByte (of_decide_eq_true hw))⟩
    | .rsvd, _ => exact ⟨_, rfl, rfl⟩
  | pixelDirect =>
    match i, hs with
    | .idx c, _ => exact ⟨_, rfl, rfl⟩
  | pixelHam n b =>
    match i, hs with
    | .hamSet c, hs => exact ⟨_, rfl, if_pos (of_decide_eq_true hs)⟩
    | .hamModG b' three val, hs => exact ⟨_, rfl, decode_modifyByte hw hs (decodeModify_modifyByte_green hw)⟩
    | .hamModB b' val, hs => exact ⟨_, rfl, decode_modifyByte hw hs (decodeModify_modifyByte_blue hw)⟩
    | .hamModR b' val, hs => exact ⟨_, rfl, decode_modifyByte hw hs (decodeModify_modifyByte_red hw)⟩
  | compSel =>
    match i, hs with
    | .unpackRaw, _ => exact ⟨_, rfl, rfl⟩
    | .unpackRle, _ => exact ⟨_, rfl, rfl⟩
    | .unpackUnsupported v, _ => exact ⟨_, rfl, congrArg _ (decodeCompSel_unsupported hw)⟩
  | fixSel =>
    match i, hs with
    | .fixEhb, _ => exact ⟨_, rfl, rfl⟩
    | .fixHamcull, _ => exact ⟨_, rfl, rfl⟩
    | .fixPass, _ => exact ⟨_, rfl, rfl⟩
  | compositorSel =>
    match i, hs with
    | .compDirect, _ => exact ⟨_, rfl, rfl⟩
    | .compHam, _ => exact ⟨_, rfl, rfl⟩

theorem decodeHam_wellFormed {n b : Nat} {c : Byte} {i : Instr} (h : decodeHam n b c = .ok i) :
    i.wellFormed = true := by
  unfold decodeHam at h
  split_ifs at h with hc hb <;> cases h
  · rfl
  · exact decodeModify_wellFormed hb c

/-- What the decoder answers is an instruction of the table. -/
theorem decode_wellFormed {sp : Space} {raw : Raw} {i : Instr} (h : decode sp raw = .ok i) : i.wellFormed = true := by
  match sp, raw, h with
  | .rle, .byte c, h => cases h; exact decodeRle_wellFormed c
  | .pixelDirect, .byte c, h => cases h; rfl
  | .pixelHam n b, .byte c, h => exact decodeHam_wellFormed h
  | .compSel, .byte c, h => cases h; exact decodeCompSel_wellFormed c
  | .fixSel, .mode m, h => cases h; exact decodeFixSel_wellFormed m
  | .compositorSel, .mode m, h => cases h; exact decodeCompositorSel_wellFormed m

/-- Settles O44: each space's decoder answers rows of the table, and RLE, direct codes and COMP keep every bit. -/
theorem decodedInstructionsAreWellFormed : Obligations.DecodedInstructionsAreWellFormed := by
  unfold Obligations.DecodedInstructionsAreWellFormed
  refine ⟨fun sp raw i => decode_wellFormed, fun sp c i hsp h => ?_⟩
  rcases hsp with rfl | rfl | rfl <;> cases h
  · exact encode_decodeRle c
  · rfl
  · exact encode_decodeCompSel c

/-! ### Ignored bits -/

/-- CTL and VAL are the bits below `b + 2`. -/
theorem ctlOf_valOf_congr {b : Nat} {c c' : Byte} (h : c.toNat % 2 ^ (b + 2) = c'.toNat % 2 ^ (b + 2)) :
    ctlOf b c = ctlOf b c' ∧ valOf b c = valOf b c' := by
  have hctl : ∀ x : Byte, ctlOf b x = x.toNat % 2 ^ (b + 2) / 2 ^ b := fun x => by
    rw [Nat.pow_add, Nat.mod_mul_right_div_self]
    rfl
  have hval : ∀ x : Byte, valOf b x = BitVec.ofNat 8 (x.toNat % 2 ^ (b + 2) % 2 ^ b) := fun x => by
    rw [Nat.mod_mod_of_dvd _ (Nat.pow_dvd_pow 2 (Nat.le_add_right b 2))]
    rfl
  exact ⟨by rw [hctl, hctl, h], by rw [hval, hval, h]⟩

/-- Settles O45: a modify code is read by its CTL and VAL, MODE by its two flags. -/
theorem ignoredBitsDoNotDecode : Obligations.IgnoredBitsDoNotDecode := by
  unfold Obligations.IgnoredBitsDoNotDecode
  refine ⟨fun b c c' h => ?_, fun m m' hham hehb => ?_⟩
  · obtain ⟨hctl, hval⟩ := ctlOf_valOf_congr h
    rw [decodeModify, decodeModify, hctl, hval]
  · have ham : hamFlag m = hamFlag m' := by rw [hamFlag_eq, hamFlag_eq, hham]
    have ehb : ehbFlag m = ehbFlag m' := by rw [ehbFlag_eq, ehbFlag_eq, hehb]
    exact ⟨by rw [decodeFixSel, decodeFixSel, ham, ehb], by rw [decodeCompositorSel, decodeCompositorSel, ham]⟩

/-! ### The assembler -/

/-- The bytes of a LIT line: a control byte with its length, then its data. -/
theorem assemble_lit_decodes {data bs : List Byte} (h : (AsmLine.lit data).assemble = some bs) :
    ∃ n : BitVec 7, litCount n = data.length ∧ ∃ c, bs = c :: data ∧ decodeRle c = .lit n := by
  obtain ⟨⟨hpos, hmax⟩, rfl⟩ := (AsmLine.assemble_lit data bs).mp h
  have hc : (BitVec.ofNat 8 (data.length - 1)).toNat = data.length - 1 := Nat.mod_eq_of_lt (by omega)
  refine ⟨_, ?_, _, rfl, decodeRle_of_lt (by omega)⟩
  rw [litCount, toNat_countField, hc]
  omega

/-- The bytes of a REP line: a control byte with its count, then its data byte. -/
theorem assemble_rep_decodes {count : Nat} {d : Byte} {bs : List Byte} (h : (AsmLine.rep count d).assemble = some bs) :
    ∃ n : BitVec 7, n ≠ 0 ∧ repCount n = count ∧ ∃ c, bs = [c, d] ∧ decodeRle c = .rep n := by
  obtain ⟨⟨hmin, hmax⟩, rfl⟩ := (AsmLine.assemble_rep count d bs).mp h
  have hc : (BitVec.ofNat 8 (257 - count)).toNat = 257 - count := Nat.mod_eq_of_lt (by omega)
  have hdec := decodeRle_of_gt (c := BitVec.ofNat 8 (257 - count)) (by omega)
  have hwf := hdec ▸ decodeRle_wellFormed _
  refine ⟨_, of_decide_eq_true hwf, ?_, _, rfl, hdec⟩
  rw [repCount, toNat_countField, hc]
  omega

/-- Settles O46: the two run formats. -/
theorem assembledRunsDecodeToTheirLength : Obligations.AssembledRunsDecodeToTheirLength :=
  ⟨fun _ _ h => assemble_lit_decodes h, fun _ _ _ h => assemble_rep_decodes h⟩

/-! ### Component values and the spec's words -/

/-- A value of `b` bits shifted to the top of the byte loses nothing. -/
theorem toNat_v8 {b : Nat} {val : Byte} (hb : b ≤ 8) (hval : val.toNat < 2 ^ b) :
    (v8 b val).toNat = val.toNat * 2 ^ (8 - b) := by
  refine Nat.mod_eq_of_lt ?_
  rw [← show 2 ^ b * 2 ^ (8 - b) = 2 ^ 8 from two_pow_mul_two_pow_sub hb]
  exact Nat.mul_lt_mul_of_pos_right hval (Nat.two_pow_pos _)

/-- Settles O35: V8 is a multiple of `2 ^ (8 - b)` below 256, which is one too. -/
theorem componentValueFillsFromTheTop : Obligations.ComponentValueFillsFromTheTop := by
  unfold Obligations.ComponentValueFillsFromTheTop
  intro b val hb hval
  have hnext : (val.toNat + 1) * 2 ^ (8 - b) ≤ 256 :=
    (Nat.mul_le_mul_right _ hval).trans_eq (two_pow_mul_two_pow_sub hb)
  rw [Nat.succ_mul] at hnext
  rw [toNat_v8 hb hval]
  exact ⟨rfl, Nat.le_sub_of_add_le hnext, Nat.mul_mod_left _ _⟩

/-- Settles O42: the decoder evaluated on the twelve words. -/
theorem decoderReadsTheSpecsWords : Obligations.DecoderReadsTheSpecsWords := by
  unfold Obligations.DecoderReadsTheSpecsWords
  decide

end Sys2Proof.Machine
end

section
/-!
PROOFS. The loop of UNPACK.RLE on an assembled program: what one pass of LIT and of REP does to the bytes ahead of
SRC_PC and to the bytes in PB, from these one line, and from one line the program.
-/

namespace Sys2Proof.Machine

/-- The RLE loop of a decode left alone, `ahead` being the bytes of the span from SRC_PC on, `written` the bytes that
stand in PB so far, `len` SRC_LEN and `size` PB_SIZE. -/
structure Unpacking (len size : Nat) (ahead written : List Byte) (s : State) : Prop where
  busy : s.phase = .busy
  at_rle : s.stage = .rle
  quiet : s.inbox = []
  size_eq : s.pbSize = size
  len_eq : s.srcLen = len
  span : s.srcPc + ahead.length = len
  src : ∀ a < ahead.length, memRead s.src (s.srcPc + a) = ahead[a]?
  fill : s.pbFill = written.length
  pb : ∀ a < written.length, memRead s.pb a = written[a]?

section

variable {len size : Nat} {ahead written out : List Byte} {s : State} {v d : Byte}

/-! ### One byte -/

/-- The byte at SRC_PC. -/
theorem Unpacking.memRead_src (h : Unpacking len size (v :: ahead) written s) : memRead s.src s.srcPc = some v :=
  h.src 0 (Nat.succ_pos _)

theorem Unpacking.srcPc_lt (h : Unpacking len size (v :: ahead) written s) : s.srcPc < s.srcLen := by
  have hspan := h.span
  rw [List.length_cons, ← h.len_eq] at hspan
  omega

/-- A fetch takes the first of the bytes ahead. -/
theorem Unpacking.fetch (h : Unpacking len size (v :: ahead) written s) :
    Unpacking len size ahead written { s with srcPc := s.srcPc + 1 } where
  busy := h.busy
  at_rle := h.at_rle
  quiet := h.quiet
  size_eq := h.size_eq
  len_eq := h.len_eq
  span := by
    have hspan := h.span
    rw [List.length_cons] at hspan
    change s.srcPc + 1 + ahead.length = len
    omega
  src a ha := by
    have hsrc := h.src (a + 1) (Nat.succ_lt_succ ha)
    rwa [List.getElem?_cons_succ, Nat.add_comm a, ← Nat.add_assoc] at hsrc
  fill := h.fill
  pb := h.pb

/-- A store appends to the bytes in PB. -/
theorem Unpacking.store (h : Unpacking len size ahead written s) (v : Byte) :
    Unpacking len size ahead (written ++ [v]) (s.storePb v) where
  busy := h.busy
  at_rle := h.at_rle
  quiet := h.quiet
  size_eq := h.size_eq
  len_eq := h.len_eq
  span := h.span
  src := h.src
  fill := by rw [State.storePb_pbFill, h.fill, List.length_append, List.length_singleton]
  pb a ha := by
    rw [List.length_append, List.length_singleton] at ha
    rw [State.storePb_pb, memRead_memWrite, h.fill]
    split
    · rename_i e
      rw [← e, List.getElem?_concat_length]
    · rw [List.getElem?_append_left (by omega)]
      exact h.pb a (by omega)

/-! ### The passes of LIT and REP -/

/-- With room in PB and a byte ahead, a pass of LIT copies the byte. -/
theorem Unpacking.litPass (h : Unpacking len size (v :: ahead) written s) (hroom : written.length < size) (j : Nat) :
    ∃ t, Machine.litPass j s = .goesOn t ∧ Unpacking len size ahead (written ++ [v]) t := by
  have hfill : ¬ s.pbSize ≤ s.pbFill := by rw [h.size_eq, h.fill]; omega
  have hspan := h.srcPc_lt
  refine ⟨_, ?_, h.fetch.store v⟩
  rw [Machine.litPass, if_neg hfill, if_neg (by omega), State.fetchSrc, readOrStuck_of_some _ h.memRead_src]

/-- A literal run that fits is copied whole. -/
theorem Unpacking.litRun {data : List Byte} (h : Unpacking len size (data ++ ahead) written s)
    (hroom : written.length + data.length ≤ size) (j : Nat) :
    ∃ t, forEach Machine.litPass data.length j s = .goesOn t ∧ Unpacking len size ahead (written ++ data) t := by
  induction data generalizing written s j with
  | nil => exact ⟨s, rfl, by rwa [List.append_nil]⟩
  | cons v data ih =>
    rw [List.length_cons] at hroom
    obtain ⟨t, hpass, ht⟩ := Unpacking.litPass (ahead := data ++ ahead) h (by omega) j
    obtain ⟨u, hrun, hu⟩ := ih ht (by rw [List.length_append, List.length_singleton]; omega) (j + 1)
    refine ⟨u, ?_, by rwa [List.append_cons]⟩
    rw [List.length_cons, forEach, hpass, Flow.andThen_goesOn, hrun]

/-- With room in PB a pass of REP writes the data byte. -/
theorem Unpacking.repPass (h : Unpacking len size ahead written s) (hroom : written.length < size) (d : Byte)
    (j : Nat) : Unpacking len size ahead (written ++ [d]) (Machine.repPass d j s) := by
  have hfill : ¬ s.pbSize ≤ s.pbFill := by rw [h.size_eq, h.fill]; omega
  rw [Machine.repPass, if_neg hfill]
  exact h.store d

/-- A replicate run that fits is written whole. -/
theorem Unpacking.repRun {count : Nat} (h : Unpacking len size ahead written s)
    (hroom : written.length + count ≤ size) (d : Byte) (j : Nat) :
    Unpacking len size ahead (written ++ List.replicate count d) (forUpdate (Machine.repPass d) count j s) := by
  induction count generalizing written s j with
  | zero => rwa [List.replicate_zero, List.append_nil]
  | succ count ih =>
    have hrest := ih (h.repPass (by omega) d j) (by rw [List.length_append, List.length_singleton]; omega) (j + 1)
    rwa [List.append_assoc] at hrest

/-! ### One line -/

/-- A step of the loop, with nothing arriving. -/
theorem Unpacking.step_eq (h : Unpacking len size ahead written s) : step s = rleStep s := by
  rw [step, h.quiet, blockStep, h.busy, unitStep, h.at_rle]

/-- With room in PB and a control byte ahead, a step fetches, decodes and executes it. -/
theorem Unpacking.step_exec (h : Unpacking len size (v :: ahead) written s) (hroom : written.length < size) :
    step s = exec (decodeRle v) { s with srcPc := s.srcPc + 1 } := by
  have hgo : s.rleGoesOn = true := by
    simp only [State.rleGoesOn, Bool.and_eq_true, decide_eq_true_eq]
    exact ⟨by rw [h.size_eq, h.fill]; exact hroom, h.srcPc_lt⟩
  rw [h.step_eq, rleStep, if_pos hgo, h.memRead_src]
  rfl

/-- A line of the program whose output fits: one step takes its bytes and appends its output. -/
theorem Unpacking.line {l : AsmLine} {bs : List Byte} (h : Unpacking len size (bs ++ ahead) written s)
    (hbs : l.assemble = some bs) (hout : l.output = some out) (hroom : written.length + out.length ≤ size) :
    ∃ t, step s = .next t ∧ Unpacking len size ahead (written ++ out) t := by
  cases l with
  | lit data =>
    cases hout
    obtain ⟨n, hcount, c, rfl, hdec⟩ := assemble_lit_decodes hbs
    have hpos : 0 < out.length := hcount ▸ Nat.succ_pos _
    obtain ⟨t, hrun, ht⟩ := Unpacking.litRun (Unpacking.fetch (ahead := out ++ ahead) h) hroom 0
    refine ⟨t, ?_, ht⟩
    rw [Unpacking.step_exec (ahead := out ++ ahead) h (by omega), hdec, exec, execLit, hcount, hrun,
      Flow.outcome_goesOn]
  | rep count d =>
    cases hout
    rw [List.length_replicate] at hroom
    have hmin := ((AsmLine.assemble_rep count d bs).mp hbs).1.1
    obtain ⟨n, -, hcount, c, rfl, hdec⟩ := assemble_rep_decodes hbs
    have hdata : Unpacking len size (d :: ahead) written { s with srcPc := s.srcPc + 1 } :=
      Unpacking.fetch (ahead := d :: ahead) h
    have hspan := hdata.srcPc_lt
    refine ⟨_, ?_, hdata.fetch.repRun hroom d 0⟩
    rw [Unpacking.step_exec (ahead := d :: ahead) h (by omega), hdec, exec, execRep, if_neg (by omega), State.fetchSrc,
      readOrStuck_of_some _ hdata.memRead_src, hcount, Flow.outcome_goesOn]
  | rsvd | byte => cases hout

/-! ### The program -/

theorem assemble_cons {l : AsmLine} {ls : List AsmLine} {bs : List Byte} :
    assemble (l :: ls) = some bs ↔ ∃ b rest, l.assemble = some b ∧ assemble ls = some rest ∧ b ++ rest = bs := by
  simp [assemble, Option.bind_eq_some_iff]

theorem programOutput_cons {l : AsmLine} {ls : List AsmLine} :
    programOutput (l :: ls) = some out ↔
      ∃ o rest, l.output = some o ∧ programOutput ls = some rest ∧ o ++ rest = out := by
  simp [programOutput, Option.bind_eq_some_iff]

/-- One step a line takes the whole program and appends its output, where that fits. -/
theorem Unpacking.program {ls : List AsmLine} {bs : List Byte} (h : Unpacking len size bs written s)
    (hbs : assemble ls = some bs) (hout : programOutput ls = some out) (hroom : written.length + out.length ≤ size) :
    ∃ t, runSteps ls.length s = .next t ∧ Unpacking len size [] (written ++ out) t := by
  induction ls generalizing bs out written s with
  | nil =>
    cases hbs
    cases hout
    exact ⟨s, rfl, by rwa [List.append_nil]⟩
  | cons l ls ih =>
    obtain ⟨b, bs', hb, hbs', rfl⟩ := assemble_cons.mp hbs
    obtain ⟨o, out', ho, hout', rfl⟩ := programOutput_cons.mp hout
    rw [List.length_append] at hroom
    obtain ⟨t, hstep, ht⟩ := h.line hb ho (by omega)
    obtain ⟨u, hrun, hu⟩ := ih ht hbs' hout' (by rw [List.length_append]; omega)
    exact ⟨u, (runSteps_succ _ hstep).trans hrun, by rwa [List.append_assoc] at hu⟩

/-- With PB full the next step is the normal stop (R138). -/
theorem Unpacking.step_full (h : Unpacking len written.length ahead written s) : step s = .next (s.goto .deint) := by
  have hstop : ¬ s.rleGoesOn = true := by simp [State.rleGoesOn, h.size_eq, h.fill]
  rw [h.step_eq, rleStep, if_neg hstop]

end

/-- Settles O22, by induction on the lines: each takes its bytes and appends its output, and then PB is full. -/
theorem assembledProgramUnpacksToItsOutput : Obligations.AssembledProgramUnpacksToItsOutput := by
  unfold Obligations.AssembledProgramUnpacksToItsOutput
  intro ls bs out s hbs hout hbusy hst hbox hpc hfill hlen hsize hsrc
  have hstart : Unpacking bs.length out.length bs [] s :=
    ⟨hbusy, hst, hbox, hsize, hlen, by rw [hpc, Nat.zero_add], fun a ha => by rw [hpc, Nat.zero_add]; exact hsrc a ha,
      hfill, nofun⟩
  obtain ⟨t, hrun, ht⟩ := hstart.program hbs hout (Nat.zero_add _).le
  refine ⟨t.goto .deint, ?_, ht.busy, rfl, ht.span, ht.fill, ht.pb⟩
  rw [runSteps_add _ _ hrun, runSteps_succ 0 ht.step_full, runSteps]

end Sys2Proof.Machine
end

section
/-!
PROOFS. The host's parsing: what it issues, chunk after chunk.
-/

namespace Sys2Proof.Machine

/-- The host has issued host commands only, and no START before the pixel data and at most one with it. -/
def HostSession.Proper (h : HostSession) : Prop :=
  h.commands.all Instr.isHostCommand = true ∧ h.commands.count .start ≤ h.bodySeen.toNat

/-- A host command other than START. -/
abbrev Preparing (c : Instr) : Prop := c.isHostCommand = true ∧ c ≠ .start

section

variable {h : HostSession}

/-- Commands that only prepare may be issued at any time. -/
theorem HostSession.Proper.issue (hp : h.Proper) {cmds : List Instr} (hcmds : ∀ c ∈ cmds, Preparing c) :
    (h.issue cmds).Proper := by
  obtain ⟨hall, hcount⟩ := hp
  unfold HostSession.issue
  split
  · exact ⟨hall, hcount⟩
  · refine ⟨?_, ?_⟩
    · rw [List.all_append, hall, List.all_eq_true.mpr fun c hc => (hcmds c hc).1]
      rfl
    · rw [List.count_append, List.count_eq_zero.mpr fun hs => (hcmds _ hs).2 rfl]
      exact hcount

theorem HostSession.Proper.issue_one (hp : h.Proper) {c : Instr} (hc : c.isHostCommand = true) (hs : c ≠ .start) :
    (h.issue [c]).Proper :=
  hp.issue (List.forall_mem_singleton.mpr ⟨hc, hs⟩)

/-- A CMAP payload becomes PAL_PUSHes. -/
theorem palPushes_preparing (payload : List Byte) : ∀ c ∈ palPushes payload, Preparing c := by
  fun_induction palPushes payload with
  | case1 r g b rest ih => exact List.forall_mem_cons.mpr ⟨⟨rfl, nofun⟩, ih⟩
  | case2 => nofun

/-- The pixel data: pushes and START, issued once. -/
theorem HostSession.Proper.body (hp : h.Proper) (payload : List Byte) :
    HostSession.Proper { h.issue (.srcClear :: payload.map .srcPush ++ [.start]) with bodySeen := true } := by
  have hpushes : ∀ c ∈ Instr.srcClear :: payload.map .srcPush, Preparing c :=
    List.forall_mem_cons.mpr ⟨⟨rfl, nofun⟩, List.forall_mem_map.mpr fun _ _ => ⟨rfl, nofun⟩⟩
  cases hseen : h.bodySeen with
  | true =>
    obtain ⟨hall, hcount⟩ := hp
    rw [hseen] at hcount
    rw [HostSession.issue, if_pos hseen]
    exact ⟨hall, hcount⟩
  | false =>
    obtain ⟨hall, hcount⟩ := hp.issue hpushes
    rw [HostSession.issue, if_neg (by simp [hseen])] at hall hcount ⊢
    rw [hseen] at hcount
    rw [← List.append_assoc]
    refine ⟨?_, ?_⟩
    · rw [List.all_append, hall]
      rfl
    · rw [List.count_append]
      exact Nat.add_le_add_right hcount 1

/-- The parse of a header issues HDR_LOAD at most. -/
theorem HostSession.Proper.takeHeader (hp : h.Proper) (hd : BitmapHeader) : (h.takeHeader hd).Proper := by
  unfold HostSession.takeHeader
  split
  · exact hp
  · exact HostSession.Proper.issue_one (h := { h with header := some hd }) hp rfl nofun

/-- Every chunk, by its kind. -/
theorem HostSession.Proper.dispatch (hp : h.Proper) (tag payload : List Byte) : (h.dispatch tag payload).Proper := by
  unfold HostSession.dispatch
  split
  · split
    · exact hp
    · exact hp.takeHeader _
  · exact hp.issue (List.forall_mem_cons.mpr ⟨⟨rfl, nofun⟩, palPushes_preparing payload⟩)
  · split
    · exact hp
    · exact hp.issue_one rfl nofun
  · exact hp.body payload
  · split <;> exact hp
  · exact hp

theorem HostSession.Proper.chunk (hp : h.Proper) (tag payload : List Byte) : (h.chunk tag payload).Proper :=
  HostSession.Proper.dispatch (h := h.record tag payload) hp tag payload

/-- The chunk loop, whether it ends by itself or at a malformed chunk. -/
theorem HostSession.Proper.chunkLoop (hp : h.Proper) (fuel : Nat) (bs : List Byte) :
    (Machine.chunkLoop fuel bs h).Proper := by
  induction fuel generalizing bs h with
  | zero => exact hp
  | succ fuel ih =>
    unfold Machine.chunkLoop
    dsimp only
    split
    · exact hp
    split
    · exact hp
    split
    · exact hp
    split
    · exact hp.chunk _ _
    · exact ih (hp.chunk _ _) _

theorem hostDecode_proper (p : HostParams) (file : List Byte) : (hostDecode p file).Proper := by
  unfold hostDecode
  dsimp only
  split
  · exact ⟨rfl, Nat.le_refl 0⟩
  · exact HostSession.Proper.chunkLoop (by exact ⟨rfl, Nat.le_refl 0⟩) _ _

end

/-- Settles O57, by induction on the chunks. -/
theorem hostIssuesCommandsAndStartsAtMostOnce : Obligations.HostIssuesCommandsAndStartsAtMostOnce := by
  unfold Obligations.HostIssuesCommandsAndStartsAtMostOnce
  intro p file
  obtain ⟨hall, hcount⟩ := hostDecode_proper p file
  exact ⟨hall, hcount.trans (Bool.toNat_le _)⟩

end Sys2Proof.Machine
end

section
/-!
PROOFS. A decode that is left alone ends: every move of a running unit faults, is the last one, or leaves the sequencer
with fewer moves to make.
-/

namespace Sys2Proof.Machine

/-! ### What each unit comes to -/

/-- A unit that ends by an update of the state, such as the move of the sequencer, makes that update or has raised. -/
theorem Flow.Ends.of_outcome_andThen {f : Flow} {g r : State → Prop} {k : Fault → Prop} {finish : State → State}
    {t : State} (h : f.Ends g r k) (ht : (f.andThen (fun u => .goesOn (finish u))).outcome = .next t) :
    (∃ u, g u ∧ t = finish u) ∨ r t :=
  (Flow.Ends.andThen (next := fun u => .goesOn (finish u)) (g := fun v => ∃ u, g u ∧ v = finish u)
    (h.imp (fun u hu => ⟨u, hu, rfl⟩) (fun _ hr => hr) (fun _ hk => hk))).of_outcome ht

/-- UNPACK.RAW runs to its end and hands over to DEINT. -/
theorem execUnpackRaw_stage {s t : State} (h : execUnpackRaw s = .next t) : t.stage = .deint := by
  have loop : (forEach rawPass (min s.srcLen s.pbSize) 0 s).Ends (fun _ => True) (fun _ => False) (fun _ => True) :=
    forEach_ends (fun _ _ => True) _ _ _ 0 s trivial (fun a u _ _ _ => by
      unfold rawPass
      rcases readOrStuck_cases .src u.src a (fun v => .goesOn { u with pb := memWrite u.pb a v }) with
        ⟨v, -, e⟩ | ⟨-, e⟩ <;> rw [e] <;> trivial)
  unfold execUnpackRaw at h
  rcases loop.of_outcome_andThen h with ⟨u, -, rfl⟩ | hr
  · rfl
  · exact hr.elim

/-- The selection of UNPACK: RAW runs whole, RLE enters its loop, any other value faults. -/
theorem unpackStep_stage {v : Byte} {s t : State} (h : exec (decodeCompSel v) s = .next t) :
    t.stage = .deint ∨ t.stage = .rle ∨ t.phase = .fault := by
  unfold decodeCompSel at h
  split at h
  · exact .inl (execUnpackRaw_stage h)
  split at h
  · cases h; exact .inr (.inl rfl)
  · cases h; exact .inr (.inr rfl)

/-- `t` is at the stage of `s`, and SRC_PC has not gone back. -/
def StreamOn (s t : State) : Prop := t.stage = s.stage ∧ s.srcPc ≤ t.srcPc

theorem StreamOn.refl (s : State) : StreamOn s s := ⟨rfl, Nat.le_refl _⟩

theorem StreamOn.trans {s t u : State} (h : StreamOn s t) (h' : StreamOn t u) : StreamOn s u :=
  ⟨h'.1.trans h.1, h.2.trans h'.2⟩

theorem litPass_streamOn (j : Nat) (s : State) :
    (litPass j s).Ends (StreamOn s) (fun t => t.phase = .fault) (fun _ => True) := by
  unfold litPass State.fetchSrc
  split
  · exact .refl s
  split
  · rfl
  · rcases readOrStuck_cases .src s.src s.srcPc
      (fun v => .goesOn (({ s with srcPc := s.srcPc + 1 } : State).storePb v)) with ⟨v, -, e⟩ | ⟨-, e⟩ <;> rw [e]
    · exact ⟨rfl, Nat.le_succ _⟩
    · trivial

theorem execLit_streamOn {n : BitVec 7} {s t : State} (h : execLit n s = .next t) :
    StreamOn s t ∨ t.phase = .fault :=
  (forEach_ends (fun _ => StreamOn s) _ (fun _ => True) (litCount n) 0 s (.refl s) (fun j u _ _ hu =>
    (litPass_streamOn j u).imp (fun _ => hu.trans) (fun _ hr => hr) (fun _ hk => hk))).of_outcome h

theorem repPass_streamOn (d : Byte) (j : Nat) (s : State) : StreamOn s (repPass d j s) := by
  unfold repPass
  split
  · exact .refl s
  · exact ⟨rfl, Nat.le_refl _⟩

theorem execRep_streamOn {n : BitVec 7} {s t : State} (h : execRep n s = .next t) :
    StreamOn s t ∨ t.phase = .fault := by
  unfold execRep State.fetchSrc at h
  split at h
  · cases h; exact .inr rfl
  · rcases readOrStuck_cases .src s.src s.srcPc (fun d => Flow.goesOn
      (forUpdate (repPass d) (repCount n) 0 { s with srcPc := s.srcPc + 1 })) with ⟨d, -, e⟩ | ⟨-, e⟩ <;> rw [e] at h
    · cases h
      exact .inl (forUpdate_inv (fun _ => StreamOn s) _ 0 _ ⟨rfl, Nat.le_succ _⟩
        (fun j u _ _ hu => hu.trans (repPass_streamOn d j u)))
    · cases h

/-- What a pass of UNPACK.RLE's loop does at least: it takes its control byte and goes on, hands over to DEINT, or
faults. -/
def RleAdvances (s t : State) : Prop :=
  (s.srcPc < s.srcLen ∧ s.srcPc < t.srcPc ∧ t.stage = s.stage) ∨ t.stage = .deint ∨ t.phase = .fault

theorem rleStep_advances {s t : State} (h : rleStep s = .next t) : RleAdvances s t := by
  unfold rleStep at h
  split at h
  · rename_i hgo
    simp only [State.rleGoesOn, Bool.and_eq_true, decide_eq_true_eq] at hgo
    split at h
    · rename_i c _
      have taken (hrun : StreamOn { s with srcPc := s.srcPc + 1 } t ∨ t.phase = .fault) : RleAdvances s t :=
        hrun.imp (fun ⟨hst, hpc⟩ => ⟨hgo.2, hpc, hst⟩) .inr
      dsimp only [runDecoded, decode] at h
      rcases decodeRle_cases c with ⟨-, e⟩ | ⟨-, e⟩ | ⟨-, e⟩ <;> rw [e] at h
      · cases h; exact .inr (.inr rfl)
      · exact taken (execLit_streamOn h)
      · exact taken (execRep_streamOn h)
    · cases h
  · cases h; exact .inr (.inl rfl)

/-- DEINT hands over to FIX or faults. -/
theorem execDeint_stage {s t : State} (h : execDeint s = .next t) : t.stage = .fix ∨ t.phase = .fault := by
  rcases (deintAll_ends s).of_outcome_andThen h with ⟨u, -, rfl⟩ | ⟨cb, f, info, rfl⟩
  · exact .inl rfl
  · exact .inr rfl

/-- FIX hands over to COMP or faults. -/
theorem fixStep_stage {m : U32} {s t : State} (h : exec (decodeFixSel m) s = .next t) :
    t.stage = .comp ∨ t.phase = .fault := by
  have cull : s.copyPalette.hamCull.Ends (fun _ => True) (fun u => u.phase = .fault) (fun _ => False) := by
    unfold State.hamCull
    dsimp only
    split
    · split
      · rfl
      · trivial
    · trivial
  unfold decodeFixSel at h
  split at h
  · cases h; exact .inl rfl
  split at h
  · rcases cull.of_outcome_andThen h with ⟨u, -, rfl⟩ | hr
    · exact .inl rfl
    · exact .inr hr
  · cases h; exact .inl rfl

/-- The entries of COMP are at pixel 0 of the loop or fault. -/
theorem compStep_stage {m : U32} {s t : State} (h : exec (decodeCompositorSel m) s = .next t) :
    t.stage = .pixels ∨ t.phase = .fault := by
  unfold decodeCompositorSel at h
  split at h
  · simp only [exec, execCompHam] at h
    split at h <;> cases h
    · exact .inr rfl
    · exact .inl rfl
  · cases h; exact .inl rfl

/-- A step of the pixel loop goes on to the next pixel, faults, or ends the image. -/
theorem pixelStep_advances {s t : State} (h : pixelStep s = .next t) :
    (s.pix < s.npix ∧ t.pix = s.pix + 1 ∧ t.stage = s.stage) ∨ Finished t := by
  by_cases hp : s.pix < s.npix
  · rcases pixelStep_cases hp h with ⟨f, info, rfl⟩ | ⟨k, -, rfl⟩ | ⟨px, rfl, -⟩
    · exact .inr (.inr rfl)
    · exact .inl ⟨hp, rfl, rfl⟩
    · rw [rowStart_eq]; exact .inl ⟨hp, rfl, rfl⟩
  · rw [pixelStep, if_neg hp] at h
    cases h
    exact .inr (.inl rfl)

/-! ### The moves that are left -/

/-- How many moves the sequencer has at most to make: one for each control byte ahead, one for each pixel ahead, and one
for each entry and each end of a unit. -/
def State.movesLeft (s : State) : Nat :=
  match s.stage with
  | .unpack => s.srcLen + s.npix + 6
  | .rle => s.srcLen - s.srcPc + s.npix + 5
  | .deint => s.npix + 4
  | .fix => s.npix + 3
  | .comp => s.npix + 2
  | .pixels => s.npix - s.pix + 1

theorem State.movesLeft_le (s : State) : s.movesLeft ≤ s.srcLen + s.npix + 6 := by
  unfold State.movesLeft
  split <;> omega

theorem State.movesLeft_pos (s : State) : 0 < s.movesLeft := by
  unfold State.movesLeft
  split <;> omega

theorem InputsKept.npix_srcLen {s t : State} (h : InputsKept s t) : t.npix = s.npix ∧ t.srcLen = s.srcLen := by
  obtain ⟨-, hw, hh, -, -, -, -, -, -, hlen, -⟩ := h
  exact ⟨by rw [State.npix, hw, hh, State.npix], hlen⟩

/-- A move of a running unit ends the decode or leaves fewer to make. -/
theorem unitStep_movesLeft {s t : State} (h : unitStep s = .next t) : Finished t ∨ t.movesLeft < s.movesLeft := by
  obtain ⟨hnpix, hlen⟩ := (unitStep_inputsKept h).npix_srcLen
  unfold unitStep at h
  split at h <;> rename_i hs
  · rcases unpackStep_stage h with e | e | e
    · exact .inr (by simp only [State.movesLeft, hs, e]; omega)
    · exact .inr (by simp only [State.movesLeft, hs, e]; omega)
    · exact .inl (.inr e)
  · rcases rleStep_advances h with ⟨hspan, hpc, e⟩ | e | e
    · exact .inr (by simp only [State.movesLeft, hs, e]; omega)
    · exact .inr (by simp only [State.movesLeft, hs, e]; omega)
    · exact .inl (.inr e)
  · rcases execDeint_stage h with e | e
    · exact .inr (by simp only [State.movesLeft, hs, e]; omega)
    · exact .inl (.inr e)
  · rcases fixStep_stage h with e | e
    · exact .inr (by simp only [State.movesLeft, hs, e]; omega)
    · exact .inl (.inr e)
  · rcases compStep_stage h with e | e
    · exact .inr (by simp only [State.movesLeft, hs, e]; omega)
    · exact .inl (.inr e)
  · rcases pixelStep_advances h with ⟨hp, hk, e⟩ | hfin
    · exact .inr (by simp only [State.movesLeft, hs, e]; omega)
    · exact .inl hfin

theorem UnitEnds.inbox {s t : State} (h : UnitEnds s t) : t.inbox = s.inbox := by
  rcases h with ⟨_, rfl⟩ | ⟨_, _, rfl⟩ <;> rfl

/-- No unit sends a command. -/
theorem unitStep_inbox {s t : State} (h : unitStep s = .next t) : t.inbox = s.inbox := by
  rcases unitStep_cases h with ⟨-, _, _, _, hu⟩ | ⟨-, _, hu⟩ | ⟨-, _, _, hu⟩ | ⟨-, _, hu⟩ | ⟨-, -, ⟨_, _, _, hu⟩, -⟩ |
    ⟨-, -, rfl⟩
  case inr.inr.inr.inr.inr => rfl
  all_goals exact hu.inbox

/-- A running block with nothing on its way moves its unit. -/
theorem step_of_busy {s : State} (hb : s.phase = .busy) (hq : s.inbox = []) : step s = unitStep s := by
  rw [step, hq, blockStep, hb]

/-- A running decode ends within the moves it has left. -/
theorem finishes_within {s : State} (hinv : StateInv s) (hb : s.phase = .busy) (hq : s.inbox = []) {m : Nat}
    (hm : s.movesLeft ≤ m) : ∃ n ≤ m, ∃ t, runSteps n s = .next t ∧ Finished t := by
  induction m generalizing s with
  | zero => exact absurd hm s.movesLeft_pos.not_ge
  | succ m ih =>
    obtain ⟨t, ht⟩ := stepNeverStopsInGoodStates s hinv
    have hu : unitStep s = .next t := step_of_busy hb hq ▸ ht
    by_cases hfin : Finished t
    · exact ⟨1, by omega, t, by rw [runSteps_succ 0 ht, runSteps], hfin⟩
    · have hless := (unitStep_movesLeft hu).resolve_left hfin
      have hbt : t.phase = .busy := by
        rcases unitStep_phase hu with e | e | ⟨e, -⟩
        · exact e.trans hb
        · exact absurd (.inr e) hfin
        · exact absurd (.inl e) hfin
      obtain ⟨n, hn, u, hrun, hend⟩ := ih (everyStepKeepsTheInvariant s t hinv ht) hbt
        ((unitStep_inbox hu).trans hq) (by omega)
      exact ⟨n + 1, by omega, u, (runSteps_succ n ht).trans hrun, hend⟩

/-- Settles O55: every step of a good state answers and keeps the invariant, and a running decode makes its moves
(`unitStep_movesLeft`) until it ends. -/
theorem decodeEndsInDoneOrFault : Obligations.DecodeEndsInDoneOrFault := by
  unfold Obligations.DecodeEndsInDoneOrFault
  intro s hinv hb hq
  exact finishes_within hinv hb hq s.movesLeft_le

end Sys2Proof.Machine
end

section
/-!
PROOFS. What the image depends on (R124): two runs from the same inputs are related step by step. While they run their
states are the same but for the leftovers of earlier sessions, and what a unit has written or will read is shared.
-/

namespace Sys2Proof.Machine

/-! ### Leftovers -/

/-- The parts of a state in which two runs on the same inputs may differ: the memories, which an earlier session filled,
COMP's loop counter before it is set, and what the host alone sees. -/
structure Leftovers where
  pal : List (Nat × Rgba)
  wpal : List (Nat × Rgba)
  src : List Host.Cell
  pb : List Host.Cell
  cb : List Host.Cell
  fb : List (Nat × Rgba)
  pix : Nat
  cmdErr : Bool
  reply : Option Reply
  freeCount : Nat

/-- `s` with other leftovers. -/
def State.withLeftovers (s : State) (l : Leftovers) : State :=
  { s with
    pal := l.pal, wpal := l.wpal, src := l.src, pb := l.pb, cb := l.cb, fb := l.fb, pix := l.pix, cmdErr := l.cmdErr,
    reply := l.reply, freeCount := l.freeCount }

section

variable (s : State) (l : Leftovers)

@[simp] theorem State.withLeftovers_wpal : (s.withLeftovers l).wpal = l.wpal := rfl
@[simp] theorem State.withLeftovers_cb : (s.withLeftovers l).cb = l.cb := rfl
@[simp] theorem State.withLeftovers_pix : (s.withLeftovers l).pix = l.pix := rfl
@[simp] theorem State.withLeftovers_palCount : (s.withLeftovers l).palCount = s.palCount := rfl
@[simp] theorem State.withLeftovers_wpalCount : (s.withLeftovers l).wpalCount = s.wpalCount := rfl
@[simp] theorem State.withLeftovers_pixelSpace : (s.withLeftovers l).pixelSpace = s.pixelSpace := rfl

end

/-- What a running unit has written or reads is the same in both: the loaded entries and bytes, PB up to PB_FILL, WPAL
up to WPAL_COUNT, from FIX on the pixel codes, and in COMP's loop the pixels so far. -/
structure Shares (s : State) (l : Leftovers) : Prop where
  pal : ∀ k < s.palCount, regRead l.pal k = regRead s.pal k
  wpal : ∀ k < s.wpalCount, regRead l.wpal k = regRead s.wpal k
  src : ∀ a < s.srcLen, memRead l.src a = memRead s.src a
  pb : ∀ a < s.pbFill, memRead l.pb a = memRead s.pb a
  cb : s.stage ∈ [Stage.fix, .comp, .pixels] → ∀ k < s.npix, memRead l.cb k = memRead s.cb k
  pix : s.stage = .pixels → l.pix = s.pix
  fb : s.stage = .pixels → ∀ k < s.pix, memRead l.fb k = memRead s.fb k

/-- Two blocks in the same running decode, with nothing on its way. -/
def Twins (s t : State) : Prop := s.phase = .busy ∧ s.inbox = [] ∧ ∃ l, t = s.withLeftovers l ∧ Shares s l

theorem Twins.shares {s t : State} (h : Twins s t) : ∃ l, t = s.withLeftovers l ∧ Shares s l := h.2.2

/-- What the host can read of two blocks in the same decode: PHASE, the fault, the counts, and in DONE the image. -/
abbrev SameReadout (s t : State) : Prop :=
  t.phase = s.phase ∧ t.err = s.err ∧ t.errInfo = s.errInfo ∧ t.srcPc = s.srcPc ∧ t.pbFill = s.pbFill ∧
    t.wpalCount = s.wpalCount ∧
    (s.phase = .done → t.width = s.width ∧ t.height = s.height ∧ ∀ k < s.npix, memRead t.fb k = memRead s.fb k)

/-- Two ended decodes that read the same, with nothing on its way. -/
def EndedAlike (s t : State) : Prop := Finished s ∧ s.inbox = [] ∧ t.inbox = [] ∧ SameReadout s t

/-- The relation of the two runs. -/
abbrev Alike (s t : State) : Prop := Twins s t ∨ EndedAlike s t

theorem Alike.sameReadout {s t : State} (h : Alike s t) : SameReadout s t := by
  rcases h with ⟨hb, -, l, rfl, -⟩ | ⟨-, -, -, h⟩
  · exact ⟨rfl, rfl, rfl, rfl, rfl, rfl, fun hd => absurd (hb.symm.trans hd) (by decide)⟩
  · exact h

/-! ### Outcomes and flows of two runs -/

/-- Where the first answers a next state, so does the second, and the states are related. -/
def Follows (R : State → State → Prop) (o o' : Host.Outcome State Fault Refusal) : Prop :=
  ∀ s, o = .next s → ∃ t, o' = .next t ∧ R s t

theorem follows_next {R : State → State → Prop} {s t : State} (h : R s t) : Follows R (.next s) (.next t) := by
  rintro _ ⟨⟩; exact ⟨t, rfl, h⟩

/-- A test that comes out the same in both. The tests of the units and of START read no leftovers, so that `Iff.rfl`
shows it of them. -/
theorem ite_related {α : Type} {P : α → α → Prop} {c c' : Prop} [Decidable c] [Decidable c'] {a a' b b' : α}
    (hc : c ↔ c') (ht : c → P a a') (hf : ¬ c → P b b') : P (if c then a else b) (if c' then a' else b') := by
  by_cases h : c
  · rw [if_pos h, if_pos (hc.mp h)]; exact ht h
  · rw [if_neg h, if_neg (fun h' => h (hc.mpr h'))]; exact hf h

/-- Where the first goes on, so does the second, to a related state; where it raises, so does the second, alike. -/
def Flow.Mirrors (R : State → State → Prop) (f g : Flow) : Prop :=
  f.Ends (fun s => ∃ t, g = .goesOn t ∧ R s t) (fun s => ∃ t, g = .raised t ∧ EndedAlike s t) (fun _ => True)

theorem Flow.mirrors_goesOn {R : State → State → Prop} {s t : State} (h : R s t) :
    (Flow.goesOn s).Mirrors R (.goesOn t) := ⟨t, rfl, h⟩

theorem Flow.mirrors_raised {R : State → State → Prop} {s t : State} (h : EndedAlike s t) :
    (Flow.raised s).Mirrors R (.raised t) := ⟨t, rfl, h⟩

theorem Flow.Mirrors.andThen {f g : Flow} {k k' : State → Flow} {R R' : State → State → Prop} (h : f.Mirrors R g)
    (hk : ∀ s t, R s t → (k s).Mirrors R' (k' t)) : (f.andThen k).Mirrors R' (g.andThen k') := by
  cases f with
  | goesOn s => obtain ⟨t, rfl, hR⟩ := h; exact hk s t hR
  | raised s => obtain ⟨t, rfl, hE⟩ := h; exact ⟨t, rfl, hE⟩
  | stuck e => trivial

theorem Flow.Mirrors.follows {f g : Flow} (h : f.Mirrors Twins g) : Follows Alike f.outcome g.outcome := by
  cases f with
  | goesOn s => obtain ⟨t, rfl, hR⟩ := h; exact follows_next (.inl hR)
  | raised s => obtain ⟨t, rfl, hE⟩ := h; exact follows_next (.inr hE)
  | stuck e => rintro _ ⟨⟩

/-- A loop in two runs: a relation indexed by the loop variable. -/
theorem forEach_mirrors {body : Nat → State → Flow} (R : Nat → State → State → Prop) (count v0 : Nat) {s t : State}
    (h0 : R v0 s t)
    (hbody : ∀ v s t, v < v0 + count → R v s t → (body v s).Mirrors (R (v + 1)) (body v t)) :
    (forEach body count v0 s).Mirrors (R (v0 + count)) (forEach body count v0 t) := by
  induction count generalizing v0 s t with
  | zero => exact ⟨t, rfl, h0⟩
  | succ n ih =>
    refine (hbody v0 s t (by omega) h0).andThen (fun u w hR => ?_)
    rw [show v0 + (n + 1) = v0 + 1 + n by omega]
    exact ih (v0 + 1) hR (fun v x y hv => hbody v x y (by omega))

/-- A loop over a plain update in two runs. -/
theorem forUpdate_related {α : Type} {body : Nat → α → α} (R : α → α → Prop) (count v0 : Nat) {x y : α} (h0 : R x y)
    (hbody : ∀ v x y, R x y → R (body v x) (body v y)) : R (forUpdate body count v0 x) (forUpdate body count v0 y) := by
  induction count generalizing v0 x y with
  | zero => exact h0
  | succ n ih => exact ih (v0 + 1) (hbody v0 x y h0)

/-- A guarded read of an element that both have. -/
theorem readOrStuck_mirrors {α : Type} {space : MemSpace} {m m' : List (Nat × α)} {a : Nat} {k k' : α → Flow}
    {R : State → State → Prop} (hm : memRead m' a = memRead m a) (hk : ∀ v, (k v).Mirrors R (k' v)) :
    (readOrStuck space m a k).Mirrors R (readOrStuck space m' a k') := by
  rcases readOrStuck_cases space m a k with ⟨v, hv, e⟩ | ⟨-, e⟩
  · rw [e, readOrStuck_of_some k' (hm.trans hv)]
    exact hk v
  · rw [e]
    trivial

/-- A memory written at one place in both is shared as far as it was, and where it was written. -/
theorem memRead_memWrite_congr {α : Type} {m m' : List (Nat × α)} {b : Nat} (a : Nat) (v : α)
    (h : b ≠ a → memRead m' b = memRead m b) : memRead (memWrite m' a v) b = memRead (memWrite m a v) b := by
  rw [memRead_memWrite, memRead_memWrite]
  split
  · rfl
  · exact h (fun e => by omega)

/-! ### The updates of a running decode -/

/-- A fault taken in both. -/
theorem Twins.raise {s t : State} (h : Twins s t) (f : Cause) (info : Nat) :
    EndedAlike (s.raise f info) (t.raise f info) := by
  obtain ⟨-, hq, l, rfl, -⟩ := h
  exact ⟨.inr rfl, hq, hq, rfl, rfl, rfl, rfl, rfl, rfl, nofun⟩

/-- The sequencer goes on to another unit before COMP's loop. -/
theorem Twins.goto {s t : State} (h : Twins s t) {st : Stage} (hpix : st ≠ .pixels)
    (hcb : st ∈ [Stage.fix, .comp, .pixels] → ∀ k < s.npix, memRead t.cb k = memRead s.cb k) :
    Twins (s.goto st) (t.goto st) := by
  obtain ⟨hb, hq, l, rfl, hs⟩ := h
  exact ⟨hb, hq, l, rfl, hs.pal, hs.wpal, hs.src, hs.pb, hcb, fun e => absurd e hpix, fun e => absurd e hpix⟩

/-- The sequencer goes on to a unit that finds no pixel codes. -/
theorem Twins.goto_early {s t : State} (h : Twins s t) {st : Stage} (hst : st ∉ [Stage.fix, .comp, .pixels]) :
    Twins (s.goto st) (t.goto st) :=
  h.goto (fun e => hst (by simp [e])) (fun hm => absurd hm hst)

/-- New stream counters, PB being shared up to the new PB_FILL. -/
theorem Twins.stream {s t : State} (h : Twins s t) (fill pc : Nat)
    (hpb : ∀ a < fill, memRead t.pb a = memRead s.pb a) :
    Twins { s with pbFill := fill, srcPc := pc } { t with pbFill := fill, srcPc := pc } := by
  obtain ⟨hb, hq, l, rfl, hs⟩ := h
  exact ⟨hb, hq, l, rfl, hs.pal, hs.wpal, hs.src, hpb, hs.cb, hs.pix, hs.fb⟩

/-- A byte of PB written in both. -/
theorem Twins.writePb {s t : State} (h : Twins s t) (a : Nat) (v : Byte) :
    Twins { s with pb := memWrite s.pb a v } { t with pb := memWrite t.pb a v } := by
  obtain ⟨hb, hq, l, rfl, hs⟩ := h
  exact ⟨hb, hq, { l with pb := memWrite l.pb a v }, rfl, hs.pal, hs.wpal, hs.src,
    fun b hb' => memRead_memWrite_congr a v (fun _ => hs.pb b hb'), hs.cb, hs.pix, hs.fb⟩

/-- A byte stored in both. -/
theorem Twins.storePb {s t : State} (h : Twins s t) (v : Byte) : Twins (s.storePb v) (t.storePb v) := by
  have hw := h.writePb s.pbFill v
  obtain ⟨l, rfl, hs⟩ := h.shares
  exact hw.stream (s.pbFill + 1) s.srcPc
    (fun a ha => memRead_memWrite_congr s.pbFill v (fun hne => hs.pb a (by omega)))

/-- A pixel code stored in both. -/
theorem Twins.storeCb {s t : State} (h : Twins s t) (k : Nat) (v : Byte) : Twins (s.storeCb k v) (t.storeCb k v) := by
  obtain ⟨hb, hq, l, rfl, hs⟩ := h
  exact ⟨hb, hq, { l with cb := memWrite l.cb k v }, rfl, hs.pal, hs.wpal, hs.src, hs.pb,
    fun hst j hj => memRead_memWrite_congr k v (fun _ => hs.cb hst j hj), hs.pix, hs.fb⟩

/-- A working palette shared up to its count. -/
theorem Twins.setWpal {s t : State} (h : Twins s t) (w w' : List (Nat × Rgba)) (n : Nat)
    (hw : ∀ k < n, regRead w' k = regRead w k) :
    Twins { s with wpal := w, wpalCount := n } { t with wpal := w', wpalCount := n } := by
  obtain ⟨hb, hq, l, rfl, hs⟩ := h
  exact ⟨hb, hq, { l with wpal := w' }, rfl, hs.pal, hw, hs.src, hs.pb, hs.cb, hs.pix, hs.fb⟩

theorem Twins.setPrev {s t : State} (h : Twins s t) (px : Rgba) : Twins (s.setPrev px) (t.setPrev px) := by
  obtain ⟨hb, hq, l, rfl, hs⟩ := h
  exact ⟨hb, hq, l, rfl, hs.pal, hs.wpal, hs.src, hs.pb, hs.cb, hs.pix, hs.fb⟩

/-- A pixel emitted in both, in COMP's loop. -/
theorem Twins.emitPixel {s t : State} (h : Twins s t) (hst : s.stage = .pixels) (px : Rgba) :
    Twins (s.emitPixel px) (t.emitPixel px) := by
  obtain ⟨hb, hq, l, rfl, hs⟩ := h
  have hpix := hs.pix hst
  refine ⟨hb, hq, { l with fb := memWrite l.fb l.pix px, pix := l.pix + 1 }, rfl, hs.pal, hs.wpal, hs.src, hs.pb, hs.cb,
    fun _ => congrArg (· + 1) hpix, fun _ k hk => ?_⟩
  change k < s.pix + 1 at hk
  change memRead (memWrite l.fb l.pix px) k = memRead (memWrite s.fb s.pix px) k
  rw [hpix]
  exact memRead_memWrite_congr s.pix px (fun hne => hs.fb hst k (by omega))

/-! ### UNPACK -/

/-- A pass of LIT copies a byte that is shared. -/
theorem litPass_mirrors (j : Nat) {s t : State} (h : Twins s t) : (litPass j s).Mirrors Twins (litPass j t) := by
  obtain ⟨l, rfl, hs⟩ := h.shares
  refine ite_related Iff.rfl (fun _ => Flow.mirrors_goesOn h) (fun _ => ?_)
  refine ite_related Iff.rfl (fun _ => Flow.mirrors_raised (h.raise _ _)) (fun hspan => ?_)
  exact readOrStuck_mirrors (hs.src _ (Nat.lt_of_not_le hspan)) fun v =>
    Flow.mirrors_goesOn ((h.stream s.pbFill (s.srcPc + 1) hs.pb).storePb v)

theorem execLit_follows (n : BitVec 7) {s t : State} (h : Twins s t) : Follows Alike (execLit n s) (execLit n t) :=
  (forEach_mirrors (fun _ => Twins) (litCount n) 0 h (fun j _ _ _ => litPass_mirrors j)).follows

theorem repPass_twins (d : Byte) (j : Nat) {s t : State} (h : Twins s t) : Twins (repPass d j s) (repPass d j t) := by
  obtain ⟨l, rfl, -⟩ := h.shares
  exact ite_related Iff.rfl (fun _ => h) (fun _ => h.storePb d)

/-- REP's data byte is shared. -/
theorem execRep_follows (n : BitVec 7) {s t : State} (h : Twins s t) : Follows Alike (execRep n s) (execRep n t) := by
  obtain ⟨l, rfl, hs⟩ := h.shares
  refine ite_related Iff.rfl (fun _ => follows_next (.inr (h.raise _ _))) (fun hspan => ?_)
  exact (readOrStuck_mirrors (hs.src _ (Nat.lt_of_not_le hspan)) fun d => Flow.mirrors_goesOn
    (forUpdate_related Twins _ _ (h.stream s.pbFill (s.srcPc + 1) hs.pb) (fun j _ _ => repPass_twins d j))).follows

/-- While UNPACK.RAW copies the span of `s`, PB is shared as far as it has been copied. -/
def RawTwins (s : State) (a : Nat) (u w : State) : Prop :=
  Twins u w ∧ u.srcLen = s.srcLen ∧ ∀ b < a, memRead w.pb b = memRead u.pb b

theorem rawPass_mirrors {s u w : State} {a : Nat} (ha : a < s.srcLen) (h : RawTwins s a u w) :
    (rawPass a u).Mirrors (RawTwins s (a + 1)) (rawPass a w) := by
  obtain ⟨htw, hlen, hpb⟩ := h
  have hsrc : memRead w.src a = memRead u.src a := by
    obtain ⟨l, rfl, hs⟩ := htw.shares
    exact hs.src a (hlen ▸ ha)
  exact readOrStuck_mirrors hsrc fun v => Flow.mirrors_goesOn
    ⟨htw.writePb a v, hlen, fun b hb => memRead_memWrite_congr a v (fun hne => hpb b (by omega))⟩

theorem execUnpackRaw_follows {s t : State} (h : Twins s t) :
    Follows Alike (execUnpackRaw s) (execUnpackRaw t) := by
  obtain ⟨l, rfl, -⟩ := h.shares
  have loop := forEach_mirrors (RawTwins s) (min s.srcLen s.pbSize) 0 (t := s.withLeftovers l) ⟨h, rfl, nofun⟩
    (fun a u w ha => rawPass_mirrors (by omega))
  refine (loop.andThen (fun u w hu => Flow.mirrors_goesOn ?_)).follows
  obtain ⟨htw, -, hpb⟩ := hu
  rw [Nat.zero_add] at hpb
  exact (htw.stream _ _ hpb).goto_early (by decide)

/-- The selection of UNPACK by COMP. -/
theorem unpackStep_follows (v : Byte) {s t : State} (h : Twins s t) :
    Follows Alike (exec (decodeCompSel v) s) (exec (decodeCompSel v) t) := by
  unfold decodeCompSel
  split_ifs
  · exact execUnpackRaw_follows h
  · exact follows_next (.inl (h.goto_early (by decide)))
  · exact follows_next (.inr (h.raise _ _))

/-- One pass of UNPACK.RLE's loop. -/
theorem rleStep_follows {s t : State} (h : Twins s t) : Follows Alike (rleStep s) (rleStep t) := by
  obtain ⟨l, rfl, hs⟩ := h.shares
  refine ite_related Iff.rfl (fun hgo => ?_)
    (fun _ => follows_next (.inl (h.goto_early (by decide))))
  simp only [State.rleGoesOn, Bool.and_eq_true, decide_eq_true_eq] at hgo
  have hsrc : memRead (s.withLeftovers l).src (s.withLeftovers l).srcPc = memRead s.src s.srcPc := hs.src _ hgo.2
  rw [hsrc]
  cases memRead s.src s.srcPc with
  | none => rintro _ ⟨⟩
  | some c =>
    have hfetch := h.stream s.pbFill (s.srcPc + 1) hs.pb
    dsimp only [runDecoded, decode]
    rcases decodeRle_cases c with ⟨-, e⟩ | ⟨-, e⟩ | ⟨-, e⟩ <;> rw [e]
    · exact follows_next (.inr (hfetch.raise _ _))
    · exact execLit_follows _ hfetch
    · exact execRep_follows _ hfetch

/-! ### DEINT -/

/-- In DEINT on an image of height `hgt`, once CB is cleared: the pixel codes are shared too. -/
def CodeTwins (hgt : U16) (s t : State) : Prop :=
  Twins s t ∧ s.height = hgt ∧ ∀ k < s.npix, memRead t.cb k = memRead s.cb k

theorem CodeTwins.storeCb {hgt : U16} {s t : State} (h : CodeTwins hgt s t) (k : Nat) (v : Byte) :
    CodeTwins hgt (s.storeCb k v) (t.storeCb k v) := by
  obtain ⟨htw, hh, hcb⟩ := h
  exact ⟨htw.storeCb k v, hh, fun j hj => memRead_memWrite_congr k v (fun _ => hcb j hj)⟩

theorem deintBit_mirrors {hgt : U16} {y : Nat} (hy : y < hgt.toNat) (p i : Nat) (v : Byte) (k : Nat) {s t : State}
    (h : CodeTwins hgt s t) : (deintBit y p i v k s).Mirrors (CodeTwins hgt) (deintBit y p i v k t) := by
  have ⟨htw, hh, hcb⟩ := h
  obtain ⟨l, rfl, -⟩ := htw.shares
  exact ite_related Iff.rfl (fun hcol => readOrStuck_mirrors (hcb _ (pixel_lt_npix (hh ▸ hy) hcol.1))
    fun c => Flow.mirrors_goesOn (h.storeCb _ _)) (fun _ => Flow.mirrors_goesOn h)

/-- PBYTE is what UNPACK wrote, which is shared, or what the policy says. -/
theorem pbyte_mirrors {s t : State} (h : Twins s t) (a : Nat) {k k' : Byte → Flow} {R : State → State → Prop}
    (hk : ∀ v, (k v).Mirrors R (k' v)) : (s.pbyte a k).Mirrors R (t.pbyte a k') := by
  obtain ⟨l, rfl, hs⟩ := h.shares
  refine ite_related Iff.rfl (fun ha => readOrStuck_mirrors (hs.pb a ha) hk) (fun _ => ?_)
  dsimp only [State.withLeftovers]
  cases s.cfg.shortBody with
  | fault => exact Flow.mirrors_raised (h.raise _ _)
  | zero => exact hk 0

theorem deintByte_mirrors {hgt : U16} {y : Nat} (hy : y < hgt.toNat) (p i : Nat) {s t : State}
    (h : CodeTwins hgt s t) : (deintByte y p i s).Mirrors (CodeTwins hgt) (deintByte y p i t) := by
  have hoff : t.pbOff y p i = s.pbOff y p i := by obtain ⟨l, rfl, -⟩ := h.1.shares; rfl
  rw [deintByte, deintByte, hoff]
  exact pbyte_mirrors h.1 _ fun v =>
    forEach_mirrors (fun _ => CodeTwins hgt) 8 0 h (fun k _ _ _ => deintBit_mirrors hy p i v k)

theorem deintRow_mirrors {hgt : U16} {y : Nat} (hy : y < hgt.toNat) {s t : State} (h : CodeTwins hgt s t) :
    (deintRow y s).Mirrors (CodeTwins hgt) (deintRow y t) := by
  have plane (p : Nat) {u w : State} (hu : CodeTwins hgt u w) :
      (deintPlane y p u).Mirrors (CodeTwins hgt) (deintPlane y p w) := by
    have hbytes : w.rowBytes = u.rowBytes := by obtain ⟨l, rfl, -⟩ := hu.1.shares; rfl
    rw [deintPlane, deintPlane, hbytes]
    exact forEach_mirrors (fun _ => CodeTwins hgt) _ 0 hu (fun i _ _ _ => deintByte_mirrors hy p i)
  have hplanes : t.nplanes = s.nplanes := by obtain ⟨l, rfl, -⟩ := h.1.shares; rfl
  rw [deintRow, deintRow, hplanes]
  exact forEach_mirrors (fun _ => CodeTwins hgt) _ 0 h (fun p _ _ _ => plane p)

/-- While DEINT clears CB, the codes are shared as far as they have been cleared. -/
def ClearTwins (s : State) (n : Nat) (u w : State) : Prop :=
  Twins u w ∧ u.npix = s.npix ∧ u.height = s.height ∧ ∀ k < n, memRead w.cb k = memRead u.cb k

theorem deintClear_mirrors {s u w : State} (n : Nat) (h : ClearTwins s n u w) :
    (deintClear n u).Mirrors (ClearTwins s (n + 1)) (deintClear n w) := by
  obtain ⟨htw, hn, hh, hcb⟩ := h
  exact Flow.mirrors_goesOn ⟨htw.storeCb n 0, hn, hh,
    fun k hk => memRead_memWrite_congr n 0 (fun hne => hcb k (by omega))⟩

theorem execDeint_follows {s t : State} (h : Twins s t) : Follows Alike (execDeint s) (execDeint t) := by
  obtain ⟨l, rfl, -⟩ := h.shares
  have clear := forEach_mirrors (ClearTwins s) s.npix 0 (t := s.withLeftovers l) ⟨h, rfl, rfl, nofun⟩
    (fun n _ _ _ => deintClear_mirrors n)
  have rows : (deintAll s).Mirrors (CodeTwins s.height) (deintAll (s.withLeftovers l)) := by
    refine clear.andThen (fun u w hu => ?_)
    obtain ⟨htw, hn, hh, hcb⟩ := hu
    rw [Nat.zero_add, ← hn] at hcb
    have hheight : w.height = u.height := by obtain ⟨l', rfl, -⟩ := htw.shares; rfl
    rw [hheight]
    exact forEach_mirrors (fun _ => CodeTwins s.height) _ 0 ⟨htw, hh, hcb⟩
      (fun y _ _ hy => deintRow_mirrors (by rw [← hh]; omega))
  exact (rows.andThen (fun u w hu => Flow.mirrors_goesOn (hu.1.goto (by decide) (fun _ => hu.2.2)))).follows

/-! ### FIX -/

theorem Twins.copyPalette {s t : State} (h : Twins s t) : Twins s.copyPalette t.copyPalette := by
  obtain ⟨l, rfl, hs⟩ := h.shares
  refine h.setWpal _ _ s.palCount (fun k hk => ?_)
  rw [regRead_copies, regRead_copies (regRead s.pal), State.withLeftovers_palCount, if_pos hk, if_pos hk]
  exact hs.pal k hk

theorem Twins.halfBrightDouble {s t : State} (h : Twins s t) : Twins s.halfBrightDouble t.halfBrightDouble := by
  obtain ⟨l, rfl, hs⟩ := h.shares
  refine ite_related Iff.rfl (fun _ => h) (fun _ => h.setWpal _ _ (2 * s.wpalCount) (fun k hk => ?_))
  rw [regRead_halfBrights, regRead_halfBrights, State.withLeftovers_wpalCount]
  refine ite_related Iff.rfl (fun _ => congrArg halfBright (hs.wpal _ (by omega))) (fun _ => hs.wpal k (by omega))

/-- The cull leaves the sequencer at FIX. -/
theorem hamCull_mirrors {s t : State} (h : Twins s t) (hst : s.stage = .fix) :
    s.hamCull.Mirrors (fun u w => Twins u w ∧ u.stage = .fix) t.hamCull := by
  obtain ⟨l, rfl, hs⟩ := h.shares
  refine ite_related Iff.rfl (fun _ => ?_) (fun _ => Flow.mirrors_goesOn ⟨h, hst⟩)
  refine ite_related Iff.rfl (fun _ => Flow.mirrors_raised (h.raise _ _)) (fun _ => ?_)
  exact Flow.mirrors_goesOn
    ⟨h.setWpal s.wpal l.wpal _ (fun k hk => hs.wpal k (hk.trans_le (Nat.div_le_self _ _))), hst⟩

/-- On to COMP: the pixel codes are shared from FIX on. -/
theorem Twins.goto_comp {s t : State} (h : Twins s t) (hst : s.stage = .fix) : Twins (s.goto .comp) (t.goto .comp) := by
  obtain ⟨l, rfl, hs⟩ := h.shares
  exact h.goto (by decide) (fun _ => hs.cb (by rw [hst]; decide))

/-- The selection of FIX by MODE. -/
theorem fixStep_follows (m : U32) {s t : State} (h : Twins s t) (hst : s.stage = .fix) :
    Follows Alike (exec (decodeFixSel m) s) (exec (decodeFixSel m) t) := by
  have doubled : s.copyPalette.halfBrightDouble.stage = .fix := by
    unfold State.halfBrightDouble
    split <;> exact hst
  unfold decodeFixSel
  split_ifs
  · exact follows_next (.inl (h.copyPalette.halfBrightDouble.goto_comp doubled))
  · exact ((hamCull_mirrors h.copyPalette hst).andThen (fun u w hu =>
      Flow.mirrors_goesOn (hu.1.goto_comp hu.2))).follows
  · exact follows_next (.inl (h.copyPalette.goto_comp hst))

/-! ### COMP -/

theorem Twins.enterPixels {s t : State} (h : Twins s t) (hst : s.stage = .comp) :
    Twins ({ s with pix := 0 }.goto .pixels) ({ t with pix := 0 }.goto .pixels) := by
  obtain ⟨hb, hq, l, rfl, hs⟩ := h
  exact ⟨hb, hq, { l with pix := 0 }, rfl, hs.pal, hs.wpal, hs.src, hs.pb, fun _ => hs.cb (by rw [hst]; decide),
    fun _ => rfl, fun _ k hk => absurd hk (Nat.not_lt_zero k)⟩

/-- The selection of COMP by MODE. -/
theorem compStep_follows (m : U32) {s t : State} (h : Twins s t) (hst : s.stage = .comp) :
    Follows Alike (exec (decodeCompositorSel m) s) (exec (decodeCompositorSel m) t) := by
  obtain ⟨l, rfl, -⟩ := h.shares
  unfold decodeCompositorSel
  split_ifs
  · exact ite_related Iff.rfl (fun _ => follows_next (.inr (h.raise _ _)))
      (fun _ => follows_next (.inl (h.enterPixels hst)))
  · exact follows_next (.inl (h.enterPixels hst))

/-- PREV at a pixel. -/
theorem Twins.rowStart {s t : State} (h : Twins s t) (hst : s.stage = .pixels) : Twins s.rowStart t.rowStart := by
  obtain ⟨l, rfl, hs⟩ := h.shares
  refine ite_related ?_ (fun _ => h.setPrev _) (fun _ => h)
  rw [State.withLeftovers_pix, hs.pix hst]
  rfl

theorem Twins.holdPixel {s t : State} (h : Twins s t) (hst : s.stage = .pixels) (px : Rgba) :
    Twins (s.holdPixel px) (t.holdPixel px) :=
  (h.emitPixel hst px).setPrev px

theorem execIdx_follows (c : Byte) {s t : State} (h : Twins s t) (hst : s.stage = .pixels) :
    Follows Alike (execIdx c s) (execIdx c t) := by
  obtain ⟨l, rfl, hs⟩ := h.shares
  refine ite_related Iff.rfl (fun _ => follows_next (.inr ?_)) (fun hc => follows_next (.inl ?_))
  · rw [State.withLeftovers_pix, hs.pix hst]
    exact h.raise _ _
  · rw [State.withLeftovers_wpal, hs.wpal _ (Nat.lt_of_not_le hc)]
    exact h.emitPixel hst _

theorem execHamSet_follows (c : Byte) {s t : State} (h : Twins s t) (hst : s.stage = .pixels)
    (hc : c.toNat < s.wpalCount) : Follows Alike (execHamSet c s) (execHamSet c t) := by
  obtain ⟨l, rfl, hs⟩ := h.shares
  refine follows_next (.inl ?_)
  rw [State.withLeftovers_wpal, hs.wpal _ hc]
  exact h.holdPixel hst _

/-- A modify code changes one channel of PREV, which is the same in both. -/
theorem decodeModify_follows (b : Nat) (c : Byte) {s t : State} (h : Twins s t) (hst : s.stage = .pixels) :
    Follows Alike (exec (decodeModify b c) s) (exec (decodeModify b c) t) := by
  obtain ⟨l, rfl, -⟩ := h.shares
  rcases decodeModify_cases b c with ⟨-, e⟩ | ⟨-, e⟩ | ⟨three, -, e⟩ <;> rw [e] <;>
    exact follows_next (.inl (h.holdPixel hst _))

/-- What a pixel code of `s` decodes to, run on the state it is run on. -/
theorem runDecoded_pixel_follows {s u w : State} (c : Byte) (h : Twins u w) (hst : u.stage = .pixels)
    (hcount : u.wpalCount = s.wpalCount) :
    Follows Alike (runDecoded s.pixelSpace (.byte c) u) (runDecoded s.pixelSpace (.byte c) w) := by
  unfold State.pixelSpace
  split_ifs
  · simp only [runDecoded, decode, decodeHam]
    by_cases hc : c.toNat < s.wpalCount
    · rw [if_pos hc]
      exact execHamSet_follows c h hst (hcount ▸ hc)
    rw [if_neg hc]
    by_cases hwidth : s.wpalBits ≤ 8
    · rw [if_pos hwidth]
      exact decodeModify_follows _ c h hst
    · rw [if_neg hwidth]
      rintro _ ⟨⟩
  · exact execIdx_follows c h hst

/-- A step of the pixel loop. -/
theorem pixelStep_follows {s t : State} (h : Twins s t) (hst : s.stage = .pixels) :
    Follows Alike (pixelStep s) (pixelStep t) := by
  have hrow := h.rowStart hst
  have ⟨_, hq, _⟩ := h
  obtain ⟨l, rfl, hs⟩ := h.shares
  have hpix : (s.withLeftovers l).pix = s.pix := hs.pix hst
  unfold pixelStep
  rw [hpix]
  refine ite_related Iff.rfl (fun hp => ?_) (fun hp => follows_next (.inr ?_))
  · rw [State.withLeftovers_cb, State.withLeftovers_pixelSpace, hs.cb (by rw [hst]; decide) _ hp]
    cases memRead s.cb s.pix with
    | none => rintro _ ⟨⟩
    | some c =>
      exact runDecoded_pixel_follows c hrow (by rw [rowStart_eq]; exact hst) (by rw [rowStart_eq])
  · exact ⟨.inl rfl, hq, hq, rfl, rfl, rfl, rfl, rfl, rfl,
      fun _ => ⟨rfl, rfl, fun k hk => hs.fb hst k (hk.trans_le (Nat.le_of_not_lt hp))⟩⟩

/-! ### The run -/

/-- A move of the running unit. -/
theorem unitStep_follows {s t : State} (h : Twins s t) : Follows Alike (unitStep s) (unitStep t) := by
  have hstage : t.stage = s.stage ∧ t.comp = s.comp ∧ t.mode = s.mode := by
    obtain ⟨l, rfl, -⟩ := h.shares; exact ⟨rfl, rfl, rfl⟩
  obtain ⟨est, ecomp, emode⟩ := hstage
  unfold unitStep
  rw [est, ecomp, emode]
  cases hst : s.stage with
  | unpack => exact unpackStep_follows s.comp h
  | rle => exact rleStep_follows h
  | deint => exact execDeint_follows h
  | fix => exact fixStep_follows s.mode h hst
  | comp => exact compStep_follows s.mode h hst
  | pixels => exact pixelStep_follows h hst

/-- An ended decode that is left alone waits. -/
theorem step_of_finished {s : State} (hf : Finished s) (hq : s.inbox = []) : step s = .next s := by
  rcases hf with hp | hp <;> rw [step, hq, blockStep, hp]

theorem step_follows {s t : State} (h : Alike s t) : Follows Alike (step s) (step t) := by
  rcases h with h | ⟨hf, hq, hq', hread⟩
  · have hmoves := unitStep_follows h
    obtain ⟨hb, hq, l, rfl, -⟩ := h
    rwa [step_of_busy hb hq, step_of_busy (s := s.withLeftovers l) hb hq]
  · have hf' : Finished t := by rw [Finished, hread.1]; exact hf
    rw [step_of_finished hf hq, step_of_finished hf' hq']
    exact follows_next (.inr ⟨hf, hq, hq', hread⟩)

/-- Two runs that are alike stay so. -/
theorem runSteps_follows (n : Nat) {s t : State} (h : Alike s t) : Follows Alike (runSteps n s) (runSteps n t) := by
  induction n generalizing s t with
  | zero => exact follows_next h
  | succ n ih =>
    intro s' hs'
    obtain ⟨u, hu, hrun⟩ := runSteps_succ_cases hs'
    obtain ⟨w, hw, huw⟩ := step_follows h u hu
    obtain ⟨t', ht', hst⟩ := ih huw s' hrun
    exact ⟨t', (runSteps_succ n hw).trans ht', hst⟩

/-! ### START -/

/-- Two idle blocks that hold the same inputs, with nothing on its way: the second is the first but for leftovers, PREV
and the sequencer's place. -/
def IdleTwins (s t : State) : Prop :=
  s.phase = .idle ∧ s.inbox = [] ∧ ∃ px st l, t = ({ s with prev := px, stage := st } : State).withLeftovers l ∧
    (∀ k < s.palCount, regRead l.pal k = regRead s.pal k) ∧ ∀ a < s.srcLen, memRead l.src a = memRead s.src a

/-- In IDLE what SameInputs does not name is as RESET left it. -/
theorem idleTwins_of_sameInputs {s t : State} (hs : StateInv s) (ht : StateInv t) (hp : s.phase = .idle)
    (hp' : t.phase = .idle) (hin : SameInputs s t) : IdleTwins { s with inbox := [] } { t with inbox := [] } := by
  have he := err_of_idle hs hp
  have he' := err_of_idle ht hp'
  obtain ⟨-, -, -, ⟨-, hinfo, hwork⟩, -⟩ := hs
  obtain ⟨-, -, -, ⟨-, hinfo', hwork'⟩, -⟩ := ht
  obtain ⟨hpc, hfill, hcount⟩ := hwork hp
  obtain ⟨hpc', hfill', hcount'⟩ := hwork' hp'
  obtain ⟨hcfg, hhdr, hpo, hso, hw, hh, hn, hc, hm, hentries, hpal, hlen, hsrc⟩ := hin
  refine ⟨hp, rfl, t.prev, t.stage,
    ⟨t.pal, t.wpal, t.src, t.pb, t.cb, t.fb, t.pix, t.cmdErr, t.reply, t.freeCount⟩, ?_,
    fun k hk => (hpal k hk).symm, fun a ha => (hsrc a ha).symm⟩
  simp only [State.withLeftovers, *]

theorem IdleTwins.sameReadout {s t : State} (h : IdleTwins s t) : SameReadout s t := by
  obtain ⟨hp, -, px, st, l, rfl, -⟩ := h
  exact ⟨rfl, rfl, rfl, rfl, rfl, rfl, fun hd => absurd (hp.symm.trans hd) (by decide)⟩

/-- A test of START that fails in both. -/
theorem IdleTwins.raise {s t : State} (h : IdleTwins s t) (f : Cause) (info : Nat) :
    EndedAlike (s.raise f info) (t.raise f info) := by
  obtain ⟨-, hq, px, st, l, rfl, -⟩ := h
  exact ⟨.inr rfl, hq, hq, rfl, rfl, rfl, rfl, rfl, rfl, nofun⟩

/-- The launch sets what is not an input and is read before it is written. -/
theorem IdleTwins.launch {s t : State} (h : IdleTwins s t) : Twins s.launch t.launch := by
  obtain ⟨-, hq, px, st, l, rfl, hpal, hsrc⟩ := h
  exact ⟨rfl, hq, l, rfl, hpal, nofun, hsrc, nofun, fun hm => absurd hm (by simp [State.launch]), nofun, nofun⟩

theorem IdleTwins.startRest {s t : State} (h : IdleTwins s t) : Alike s.startRest t.startRest := by
  have raised (f : Cause) (info : Nat) : Alike (s.raise f info) (t.raise f info) := .inr (h.raise f info)
  have launched : Alike s.launch t.launch := .inl h.launch
  obtain ⟨-, -, px, st, l, rfl, -⟩ := h
  refine ite_related (P := Alike) Iff.rfl (fun _ => raised _ _) (fun _ => ?_)
  refine ite_related (P := Alike) Iff.rfl (fun _ => raised _ _) (fun _ => ?_)
  refine ite_related (P := Alike) Iff.rfl (fun _ => raised _ _) (fun _ => ?_)
  refine ite_related (P := Alike) Iff.rfl (fun _ => raised _ _) (fun _ => ?_)
  exact ite_related (P := Alike) Iff.rfl (fun _ => raised _ _) (fun _ => launched)

/-- START makes the same tests in both. -/
theorem execStart_follows {s t : State} (h : IdleTwins s t) : Follows Alike (execStart s) (execStart t) := by
  have raised (f : Cause) (info : Nat) : Alike (s.raise f info) (t.raise f info) := .inr (h.raise f info)
  have rest := h.startRest
  obtain ⟨hp, -, px, st, l, rfl, -⟩ := h
  refine ite_related Iff.rfl (fun hn => absurd hp hn) (fun _ => ?_)
  refine ite_related Iff.rfl (fun _ => follows_next (raised _ _)) (fun _ => ?_)
  exact ite_related Iff.rfl (fun _ => follows_next (raised _ _)) (fun _ => follows_next rest)

/-- Settles O56: START finds the same in both (`execStart_follows`), and from there every step keeps the runs alike. -/
theorem imageDependsOnTheInputsAlone : Obligations.ImageDependsOnTheInputsAlone := by
  unfold Obligations.ImageDependsOnTheInputsAlone
  intro s t s' n hs ht hp hp' hin hrun
  have htw := idleTwins_of_sameInputs hs ht hp hp' hin
  cases n with
  | zero =>
    cases hrun
    exact ⟨t.started, rfl, htw.sameReadout⟩
  | succ n =>
    obtain ⟨u, hu, hrun⟩ := runSteps_succ_cases hrun
    obtain ⟨w, hw, huw⟩ := execStart_follows htw u hu
    obtain ⟨t', ht', halike⟩ := runSteps_follows n huw s' hrun
    exact ⟨t', (runSteps_succ (s := t.started) n hw).trans ht', halike.sameReadout⟩

end Sys2Proof.Machine
end

section
/-!
PROOFS. The ten host commands, each by its branches, and the step that runs a command or a selected unit.
-/

namespace Sys2Proof.Machine

/-! ### RESET and the load commands -/

theorem atResetValues_reset : AtResetValues State.reset :=
  ⟨rfl, rfl, rfl, rfl, rfl, rfl, rfl, rfl, rfl, rfl, rfl, rfl, rfl, rfl, rfl, rfl, rfl, rfl⟩

/-- Settles O1: `resetBlock` is the reset state but for the parameters, the commands on their way and the
count of free values. -/
theorem resetGivesTheResetValues : Obligations.ResetGivesTheResetValues :=
  ⟨atResetValues_reset, fun s => ⟨s.resetBlock, rfl, atResetValues_reset, rfl, rfl⟩⟩

/-- Settles O3: in IDLE the command is accepted. -/
theorem hdrLoadReplacesTheHeader : Obligations.HdrLoadReplacesTheHeader :=
  fun _ _ _ _ _ hp => congrArg Host.Outcome.next (acceptedInIdle_of_idle hp)

/-- Settles O4: in IDLE the command is accepted, and HAM and EHB are bits of MODE. -/
theorem modeLoadWritesMode : Obligations.ModeLoadWritesMode :=
  fun _ m hp => ⟨congrArg Host.Outcome.next (acceptedInIdle_of_idle hp), hamFlag_eq m, ehbFlag_eq m⟩

theorem palAppend_of_room {s : State} (h : s.palCount < s.cfg.palDepth) (r g b : Byte) : s.palAppend r g b =
    { s with pal := regWrite s.pal s.palCount ⟨r, g, b, Const.alphaOpaque⟩, palCount := s.palCount + 1 } := if_pos h

theorem palAppend_of_full {s : State} (h : s.cfg.palDepth ≤ s.palCount) (r g b : Byte) :
    s.palAppend r g b = { s with palOvf := true } := if_neg h.not_gt

/-- Settles O6: both commands are accepted; PAL_PUSH writes the entry at PAL_COUNT while PAL has room. -/
theorem paletteCommandsAppendAndClear : Obligations.PaletteCommandsAppendAndClear := by
  unfold Obligations.PaletteCommandsAppendAndClear
  intro s r g b hp
  have hpush : exec (.palPush r g b) s = .next (s.palAppend r g b) := congrArg _ (acceptedInIdle_of_idle hp)
  refine ⟨congrArg _ (acceptedInIdle_of_idle hp), fun hroom => ?_, fun hfull => ?_⟩
  · refine ⟨regWrite s.pal s.palCount ⟨r, g, b, Const.alphaOpaque⟩, ?_, regRead_regWrite_self _ _ _,
      fun k hk => regRead_regWrite_of_ne _ _ hk.symm⟩
    rw [hpush, palAppend_of_room hroom]
  · rw [hpush, palAppend_of_full hfull]

theorem srcAppend_of_room {s : State} (h : s.srcLen < s.cfg.srcDepth) (v : Byte) :
    s.srcAppend v = { s with src := memWrite s.src s.srcLen v, srcLen := s.srcLen + 1 } := if_pos h

theorem srcAppend_of_full {s : State} (h : s.cfg.srcDepth ≤ s.srcLen) (v : Byte) :
    s.srcAppend v = { s with srcOvf := true } := if_neg h.not_gt

/-- Settles O7: both commands are accepted; SRC_PUSH writes the byte at SRC_LEN while SRC has room. -/
theorem spanCommandsAppendAndClear : Obligations.SpanCommandsAppendAndClear := by
  unfold Obligations.SpanCommandsAppendAndClear
  intro s v hp
  have hpush : exec (.srcPush v) s = .next (s.srcAppend v) := congrArg _ (acceptedInIdle_of_idle hp)
  refine ⟨congrArg _ (acceptedInIdle_of_idle hp), fun hroom => ?_, fun hfull => ?_⟩
  · refine ⟨memWrite s.src s.srcLen v, ?_, memRead_memWrite_self _ _ _, fun a ha => memRead_memWrite_of_ne _ _ ha.symm⟩
    rw [hpush, srcAppend_of_room hroom]
  · rw [hpush, srcAppend_of_full hfull]

/-- Settles O8: the load commands share `acceptedInIdle`, and START tests PHASE first. -/
theorem droppedCommandsOnlySetCmdErr : Obligations.DroppedCommandsOnlySetCmdErr := by
  unfold Obligations.DroppedCommandsOnlySetCmdErr
  intro s i hp hi
  have load (effect : State → State) : Host.Outcome.next (acceptedInIdle effect s) =
      (.next s.dropCommand : Host.Outcome State Fault Refusal) := congrArg _ (acceptedInIdle_of_not_idle hp)
  rcases hi with rfl | rfl | rfl | ⟨w, h, p, c, rfl⟩ | ⟨m, rfl⟩ | ⟨r, g, b, rfl⟩ | ⟨v, rfl⟩
  case inr.inr.inl => exact if_pos hp
  all_goals exact load _

/-! ### START -/

/-- In IDLE without a header the first test fails. -/
theorem execStart_of_no_header {s : State} (hp : s.phase = .idle) (hv : s.hdrValid = false) :
    execStart s = .next (s.raise .missingDependency 0) := by
  rw [execStart, if_neg (not_not_intro hp), if_pos hv]

/-- With a header, a COMP value that selects no operation fails the second. -/
theorem execStart_of_unsupported {s : State} (hp : s.phase = .idle) (hv : s.hdrValid = true) (h0 : s.comp ≠ 0)
    (h1 : s.comp ≠ 1) : execStart s = .next (s.raise .unsupportedCompression s.comp.toNat) := by
  rw [execStart, if_neg (not_not_intro hp), if_neg (by simp [hv]), if_pos ⟨h0, h1⟩, execUnpackUnsupported]

/-- With a header and a COMP value that selects an operation, the other tests follow. -/
theorem execStart_of_selected {s : State} (hp : s.phase = .idle) (hv : s.hdrValid = true)
    (hc : s.comp = 0 ∨ s.comp = 1) : execStart s = .next s.startRest := by
  have hsel : ¬ (s.comp ≠ Const.compNone ∧ s.comp ≠ Const.compRle) := fun h => hc.elim h.1 h.2
  rw [execStart, if_neg (not_not_intro hp), if_neg (by simp [hv]), if_neg hsel]

/-- Settles O9: each test in its place, the earlier ones having passed. -/
theorem startTestsInOrder : Obligations.StartTestsInOrder := by
  unfold Obligations.StartTestsInOrder
  intro s hp
  refine ⟨execStart_of_no_header hp, fun hv => ⟨execStart_of_unsupported hp hv, fun hc => ?_⟩⟩
  have hrest : exec .start s = .next s.startRest := execStart_of_selected hp hv hc
  rw [hrest]
  unfold State.startRest
  refine ⟨fun hn => ?_, fun hn => ⟨fun hpo => ?_, fun hpo => ⟨fun hso => ?_, fun hso =>
    ⟨fun hpb => ?_, fun hpb hpx => ?_⟩⟩⟩⟩
  · rw [if_pos hn]
  · rw [if_neg hn.not_gt, if_pos hpo]
  · rw [if_neg hn.not_gt, if_neg (by simp [hpo]), if_pos hso]
  · rw [if_neg hn.not_gt, if_neg (by simp [hpo]), if_neg (by simp [hso]), if_pos hpb]
  · rw [if_neg hn.not_gt, if_neg (by simp [hpo]), if_neg (by simp [hso]), if_neg hpb.not_gt, if_pos hpx]

/-- Settles O10: no test fails. -/
theorem acceptedStartLaunchesTheDecode : Obligations.AcceptedStartLaunchesTheDecode := by
  unfold Obligations.AcceptedStartLaunchesTheDecode
  intro s hp hv hc hn hpo hso hpb hpx
  have hlaunch : s.startRest = s.launch := by
    rw [State.startRest, if_neg hn.not_gt, if_neg (by simp [hpo]), if_neg (by simp [hso]), if_neg hpb.not_gt,
      if_neg hpx.not_gt]
  exact (execStart_of_selected hp hv hc).trans (congrArg _ hlaunch)

/-! ### The read commands -/

/-- The registers whose value is open in BUSY are 9, 11 and 12. -/
theorem openRange_eq_none {s : State} {no : Nat} (h : no ≠ 9 ∧ no ≠ 11 ∧ no ≠ 12) : s.openRange no = none := by
  obtain ⟨h9, h11, h12⟩ := h
  unfold State.openRange
  split
  · exact absurd rfl h9
  · exact absurd rfl h11
  · exact absurd rfl h12
  · rfl

/-- A read of a register that is not open now gives its value. -/
theorem regRead_exact {s : State} {no : Nat} (hno : no ≤ 12) (h : s.phase ≠ .busy ∨ (no ≠ 9 ∧ no ≠ 11 ∧ no ≠ 12)) :
    exec (.regRead no) s = .next { s with reply := some (.reg (s.regValue no)) } := by
  rw [exec, execRegRead, if_pos hno, State.readReg]
  split
  · rename_i hb ho
    rcases h with hn | hn
    · exact absurd hb hn
    · rw [openRange_eq_none hn] at ho
      cases ho
  · rfl

/-- Settles O11: the registers by number, and the number that names none. -/
theorem regReadReturnsTheRegister : Obligations.RegReadReturnsTheRegister := by
  unfold Obligations.RegReadReturnsTheRegister
  refine fun s => ⟨fun p hp hopen => ?_, fun no hno => if_neg hno.not_ge⟩
  change p ∈ (List.range 13).map (fun no => (no, s.regValue no)) at hp
  obtain ⟨no, hno, rfl⟩ := List.mem_map.mp hp
  exact regRead_exact (Nat.le_of_lt_succ (List.mem_range.mp hno)) hopen

/-- Settles O13: the test of R121, and the read of an element that is written. -/
theorem fbReadReturnsThePixelOrRefuses : Obligations.FbReadReturnsThePixelOrRefuses := by
  unfold Obligations.FbReadReturnsThePixelOrRefuses
  refine fun s k => ⟨fun px hd hk hpx => ?_, fun hrefused => if_neg ?_⟩
  · rw [exec, execFbRead, if_pos ⟨hd, hk⟩, readOrStuck_of_some _ hpx, Flow.outcome_goesOn]
  · rintro ⟨hd, hk⟩
    exact hrefused.elim (fun hn => hn hd) hk.not_ge

/-! ### The step -/

/-- Settles O39: the running unit's move at each of these stages, decoded from COMP or MODE. -/
theorem stepRunsTheSelectedUnit : Obligations.StepRunsTheSelectedUnit := by
  unfold Obligations.StepRunsTheSelectedUnit
  intro s hb hd
  have moves {st : Stage} (hst : s.stage = st) : step s = unitStep s.tick ∧ s.tick.stage = st :=
    step_of_runs ⟨hb, hd, List.mem_singleton.mpr hst⟩
  refine ⟨fun hst => ?_, fun hst => ?_, fun hst => ?_, fun hst => ?_⟩ <;> obtain ⟨hstep, hunit⟩ := moves hst <;>
    rw [hstep, unitStep, hunit]
  · rw [← s.tick_comp]; rfl
  · rw [← s.tick_mode]; rfl
  · rw [← s.tick_mode]; rfl

/-- Settles O40: the head of the queue is due. -/
theorem stepRunsTheArrivedCommand : Obligations.StepRunsTheArrivedCommand := by
  unfold Obligations.StepRunsTheArrivedCommand
  intro s cmd rest hq hcmd
  rw [step, hq]
  exact if_pos hcmd

end Sys2Proof.Machine
end

section
/-!
PROOFS. UNPACK, instruction by instruction: what the loops of LIT, REP and UNPACK.RAW write into PB and where they end;
then the entries of the loops, the fetch of the RLE stream, the ends of the units and the waits.
-/

namespace Sys2Proof.Machine

/-! ### A run of bytes written to PB -/

/-- `t` is `s` with `count` bytes of PB written from index `first` on, index `a` with `val a`, and with PB_FILL and
SRC_PC as given: what the loops of R134, R135 and R137 have in common. -/
def PbRun (s : State) (first : Nat) (val : Nat → Option Byte) (count fill pc : Nat) (t : State) : Prop :=
  ∃ pb', (∀ a, memRead pb' a = if first ≤ a ∧ a < first + count then val a else memRead s.pb a) ∧
    t = { s with pb := pb', pbFill := fill, srcPc := pc }

section

variable {s t : State} {first count fill pc : Nat} {val : Nat → Option Byte}

theorem PbRun.start (s : State) (first : Nat) (val : Nat → Option Byte) : PbRun s first val 0 s.pbFill s.srcPc s :=
  ⟨s.pb, fun a => (if_neg (by omega)).symm, rfl⟩

/-- One more byte, at the index after the run. -/
theorem PbRun.write (h : PbRun s first val count fill pc t) {v : Byte} (hv : val (first + count) = some v)
    (fill' pc' : Nat) :
    PbRun s first val (count + 1) fill' pc'
      { t with pb := memWrite t.pb (first + count) v, pbFill := fill', srcPc := pc' } := by
  obtain ⟨pb', hpb, rfl⟩ := h
  refine ⟨memWrite pb' (first + count) v, fun a => ?_, rfl⟩
  rw [memRead_memWrite, hpb]
  by_cases ha : first + count = a
  · rw [if_pos ha, if_pos (by omega), ← ha, hv]
  · have hin : (first ≤ a ∧ a < first + (count + 1)) ↔ first ≤ a ∧ a < first + count := by omega
    rw [if_neg ha, if_congr hin rfl rfl]

end

/-! ### Loops in two parts -/

theorem Flow.andThen_assoc (f : Flow) (k l : State → Flow) :
    (f.andThen k).andThen l = f.andThen (fun s => (k s).andThen l) := by
  cases f <;> rfl

/-- The passes after the first `m` start where those end. -/
theorem forEach_add (body : Nat → State → Flow) (m n v0 : Nat) (s : State) :
    forEach body (m + n) v0 s = (forEach body m v0 s).andThen (forEach body n (v0 + m)) := by
  induction m generalizing v0 s with
  | zero => rw [Nat.zero_add, forEach, Flow.andThen_goesOn, Nat.add_zero]
  | succ m ih =>
    have hrest : forEach body (m + n) (v0 + 1) =
        fun t => (forEach body m (v0 + 1) t).andThen (forEach body n (v0 + (m + 1))) := by
      funext t
      rw [ih, Nat.add_right_comm, Nat.add_assoc]
    rw [Nat.add_right_comm, forEach, hrest, forEach, Flow.andThen_assoc]

/-- A flow that neither raises nor stops goes on. -/
theorem Flow.Ends.eq_goesOn {f : Flow} {g : State → Prop} (h : f.Ends g (fun _ => False) (fun _ => False)) :
    ∃ t, f = .goesOn t ∧ g t := by
  cases f with
  | goesOn s => exact ⟨s, rfl, h⟩
  | raised s => exact h.elim
  | stuck e => exact h.elim

/-! ### LIT (R134) -/

/-- What LIT writes at index `a` of PB: the stream byte as far from SRC_PC as `a` is from PB_FILL. -/
def State.litByte (s : State) (a : Nat) : Option Byte := memRead s.src (s.srcPc + (a - s.pbFill))

/-- After `j` passes that each copied a byte. -/
abbrev LitRun (s : State) (j : Nat) (t : State) : Prop :=
  PbRun s s.pbFill s.litByte j (s.pbFill + j) (s.srcPc + j) t

theorem litPass_of_full {s : State} (h : s.pbSize ≤ s.pbFill) (j : Nat) : litPass j s = .goesOn s := if_pos h

theorem litPass_of_span_ended {s : State} (hroom : s.pbFill < s.pbSize) (hspan : s.srcLen ≤ s.srcPc) (j : Nat) :
    litPass j s = .raised (s.raise .malformedChunk s.srcPc) := by
  rw [litPass, if_neg hroom.not_ge, if_pos hspan]

theorem litPass_of_byte {s : State} {v : Byte} (hroom : s.pbFill < s.pbSize) (hspan : s.srcPc < s.srcLen)
    (hv : memRead s.src s.srcPc = some v) (j : Nat) :
    litPass j s = .goesOn (({ s with srcPc := s.srcPc + 1 } : State).storePb v) := by
  rw [litPass, if_neg hroom.not_ge, if_neg hspan.not_ge, State.fetchSrc, readOrStuck_of_some _ hv]

/-- While room, span and bytes last, the passes copy. -/
theorem litPasses_copy {s : State} {m : Nat} (hroom : m ≤ s.pbSize - s.pbFill) (hspan : m ≤ s.srcLen - s.srcPc)
    (hbytes : ∀ j < m, (memRead s.src (s.srcPc + j)).isSome) :
    ∃ t, forEach litPass m 0 s = .goesOn t ∧ LitRun s m t := by
  have hloop : (forEach litPass m 0 s).Ends (LitRun s (0 + m)) (fun _ => False) (fun _ => False) := by
    refine forEach_ends (LitRun s) _ _ m 0 s (.start s _ _) fun j t _ hj ht => ?_
    obtain ⟨v, hv⟩ := Option.isSome_iff_exists.mp (hbytes j (by omega))
    have hlit : s.litByte (s.pbFill + j) = some v := by rw [State.litByte, Nat.add_sub_cancel_left, hv]
    have hnext := ht.write hlit (s.pbFill + (j + 1)) (s.srcPc + (j + 1))
    obtain ⟨pb', -, rfl⟩ := ht
    have hfill : s.pbFill + j < s.pbSize := by omega
    have hpc : s.srcPc + j < s.srcLen := by omega
    rw [litPass_of_byte hfill hpc hv]
    exact hnext
  rw [Nat.zero_add] at hloop
  exact hloop.eq_goesOn

/-- With the output full every further pass does nothing. -/
theorem litPasses_of_full {s : State} (h : s.pbSize ≤ s.pbFill) (count j : Nat) :
    forEach litPass count j s = .goesOn s := by
  induction count generalizing j with
  | zero => rfl
  | succ count ih => rw [forEach, litPass_of_full h, Flow.andThen_goesOn, ih]

/-- LIT after `m` passes that went on: the passes that are left. -/
theorem execLit_of_passes {s t : State} {n : BitVec 7} {m rest : Nat} (hcount : litCount n = m + rest)
    (h : forEach litPass m 0 s = .goesOn t) : execLit n s = (forEach litPass rest m t).outcome := by
  rw [execLit, hcount, forEach_add, h, Flow.andThen_goesOn, Nat.zero_add]

/-- Settles O19: `m` passes copy a byte each; then no pass is left, or the output is full and the rest do nothing, or
the next pass finds the span ended. -/
theorem litCopiesTheRunOrIsCut : Obligations.LitCopiesTheRunOrIsCut := by
  unfold Obligations.LitCopiesTheRunOrIsCut
  intro s n m hm hbytes
  obtain ⟨t, hrun, pb', hpb, rfl⟩ := litPasses_copy (by omega) (by omega) hbytes
  have hcount : litCount n = m + (n.toNat + 1 - m) := by rw [litCount]; omega
  refine ⟨pb', hpb, fun hstop => ?_, fun hshort hroom => ?_⟩ <;> rw [exec, execLit_of_passes hcount hrun]
  · rcases hstop with hall | hfull
    · rw [← hall, Nat.sub_self, forEach, Flow.outcome_goesOn]
    · rw [litPasses_of_full hfull, Flow.outcome_goesOn]
  · have hended : s.srcLen ≤ s.srcPc + m := by omega
    obtain ⟨rest, hrest⟩ : ∃ rest, n.toNat + 1 - m = rest + 1 := ⟨n.toNat - m, by omega⟩
    rw [hrest, forEach, litPass_of_span_ended hroom hended, Flow.andThen_raised, Flow.outcome_raised]

/-! ### REP (R135) -/

theorem repPass_of_full {s : State} (h : s.pbSize ≤ s.pbFill) (d : Byte) (j : Nat) : repPass d j s = s := if_pos h

theorem repPass_of_room {s : State} (h : s.pbFill < s.pbSize) (d : Byte) (j : Nat) : repPass d j s = s.storePb d :=
  if_neg h.not_ge

/-- After passes that wrote the data byte `j` times. -/
abbrev RepRun (d : Byte) (s : State) (j : Nat) (t : State) : Prop :=
  PbRun s s.pbFill (fun _ => some d) j (s.pbFill + j) s.srcPc t

/-- The passes write the data byte until the output is full. -/
theorem repPasses_write (d : Byte) (count : Nat) (s : State) :
    RepRun d s (min count (s.pbSize - s.pbFill)) (forUpdate (repPass d) count 0 s) := by
  have hloop : RepRun d s (min (0 + count) (s.pbSize - s.pbFill)) (forUpdate (repPass d) count 0 s) := by
    refine forUpdate_inv (fun j => RepRun d s (min j (s.pbSize - s.pbFill))) count 0 s ?_ fun j t _ _ ht => ?_
    · rw [Nat.zero_min]
      exact .start s _ _
    · rcases Nat.lt_or_ge j (s.pbSize - s.pbFill) with hroom | hfull
      · rw [Nat.min_eq_left (by omega)] at ht ⊢
        have hnext := ht.write (v := d) rfl (s.pbFill + (j + 1)) s.srcPc
        obtain ⟨pb', -, rfl⟩ := ht
        have hfill : s.pbFill + j < s.pbSize := by omega
        rw [repPass_of_room hfill]
        exact hnext
      · rw [Nat.min_eq_right hfull] at ht
        have hstay : repPass d j t = t := by
          obtain ⟨pb', -, rfl⟩ := ht
          have hfill : s.pbSize ≤ s.pbFill + (s.pbSize - s.pbFill) := by omega
          exact repPass_of_full hfill d j
        rwa [hstay, Nat.min_eq_right (by omega)]
  rwa [Nat.zero_add] at hloop

theorem execRep_of_byte {s : State} {d : Byte} (n : BitVec 7) (hspan : s.srcPc < s.srcLen)
    (hd : memRead s.src s.srcPc = some d) :
    execRep n s = .next (forUpdate (repPass d) (repCount n) 0 { s with srcPc := s.srcPc + 1 }) := by
  rw [execRep, if_neg hspan.not_ge, State.fetchSrc, readOrStuck_of_some _ hd, Flow.outcome_goesOn]

/-- Settles O20: the data byte is beyond the span, or it is read and the passes write it. -/
theorem repWritesTheRunOrIsCut : Obligations.RepWritesTheRunOrIsCut := by
  unfold Obligations.RepWritesTheRunOrIsCut
  refine fun s n => ⟨fun hended => if_pos hended, fun d m hspan hd hm => ?_⟩
  obtain ⟨pb', hpb, heq⟩ := repPasses_write d (repCount n) { s with srcPc := s.srcPc + 1 }
  subst hm
  exact ⟨pb', hpb, by rw [exec, execRep_of_byte n hspan hd, heq]; rfl⟩

/-! ### UNPACK.RAW (R137) -/

/-- Where the first `n` bytes of SRC are written, the passes copy them to the same indices. -/
theorem rawPasses_copy {s : State} {n : Nat} (h : memFilled s.src n = true) :
    ∃ t, forEach rawPass n 0 s = .goesOn t ∧ PbRun s 0 (memRead s.src) n s.pbFill s.srcPc t := by
  have hloop : (forEach rawPass n 0 s).Ends (PbRun s 0 (memRead s.src) (0 + n) s.pbFill s.srcPc) (fun _ => False)
      (fun _ => False) := by
    refine forEach_ends (fun j => PbRun s 0 (memRead s.src) j s.pbFill s.srcPc) _ _ n 0 s (.start s _ _)
      fun j t _ hj ht => ?_
    obtain ⟨v, hv⟩ := memRead_of_memFilled h (a := j) (by omega)
    have hnext := ht.write (v := v) (by rwa [Nat.zero_add]) s.pbFill s.srcPc
    rw [Nat.zero_add] at hnext
    obtain ⟨pb', -, rfl⟩ := ht
    rw [rawPass, readOrStuck_of_some _ hv]
    exact hnext
  rw [Nat.zero_add] at hloop
  exact hloop.eq_goesOn

/-- Settles O21: the passes copy, and then PB_FILL, SRC_PC and the sequencer's place are set. -/
theorem rawCopiesTheSpan : Obligations.RawCopiesTheSpan := by
  unfold Obligations.RawCopiesTheSpan
  intro s n hn hfilled
  obtain ⟨t, hrun, pb', hpb, rfl⟩ := rawPasses_copy hfilled
  refine ⟨pb', fun a => ?_, ?_⟩
  · rw [hpb, Nat.zero_add, if_congr (and_iff_right (Nat.zero_le a)) rfl rfl]
  · rw [exec, execUnpackRaw, ← hn, hrun, Flow.andThen_goesOn, Flow.outcome_goesOn, State.goto]

/-! ### The entries of the loops -/

/-- Settles O18: the entries, and the two sides of the width guard. -/
theorem loopUnitsEnterTheirLoops : Obligations.LoopUnitsEnterTheirLoops := by
  unfold Obligations.LoopUnitsEnterTheirLoops
  exact fun s => ⟨rfl, rfl, fun hw => if_neg hw.not_gt, fun hw => if_pos hw⟩

/-! ### The RLE loop -/

/-- The test of R132 as a proposition. -/
theorem State.rleGoesOn_iff (s : State) : s.rleGoesOn = true ↔ s.pbFill < s.pbSize ∧ s.srcPc < s.srcLen := by
  rw [State.rleGoesOn, Bool.and_eq_true, decide_eq_true_iff, decide_eq_true_iff]

theorem rleStep_of_byte {s : State} {c : Byte} (hroom : s.pbFill < s.pbSize) (hspan : s.srcPc < s.srcLen)
    (hc : memRead s.src s.srcPc = some c) : rleStep s = exec (decodeRle c) { s with srcPc := s.srcPc + 1 } := by
  rw [rleStep, if_pos (s.rleGoesOn_iff.mpr ⟨hroom, hspan⟩), hc]
  rfl

theorem rleStep_of_stop {s : State} (h : s.pbSize ≤ s.pbFill ∨ s.srcLen ≤ s.srcPc) :
    rleStep s = .next (s.goto .deint) := by
  refine if_neg fun hgo => ?_
  obtain ⟨hroom, hspan⟩ := s.rleGoesOn_iff.mp hgo
  omega

/-- The fetch of R133 as a step. -/
theorem step_of_fetched_byte {s : State} {c : Byte} (h : s.runs [.rle]) (hroom : s.pbFill < s.pbSize)
    (hspan : s.srcPc < s.srcLen) (hc : memRead s.src s.srcPc = some c) :
    step s = exec (decodeRle c) { s.tick with srcPc := s.srcPc + 1 } := by
  obtain ⟨hstep, hunit⟩ := step_of_runs h
  rw [hstep, unitStep, hunit, ← s.tick_srcPc]
  exact rleStep_of_byte (by simpa using hroom) (by simpa using hspan) (by simpa using hc)

/-- Settles O37: the fetch, and the kind of instruction by the value of the byte. -/
theorem stepRunsTheFetchedRleInstruction : Obligations.StepRunsTheFetchedRleInstruction := by
  unfold Obligations.StepRunsTheFetchedRleInstruction
  refine fun s c hruns hroom hspan hc => ⟨step_of_fetched_byte hruns hroom hspan hc, fun h => ?_,
    fun h => ⟨_, decodeRle_of_lt h, ?_⟩, fun h => ⟨_, decodeRle_of_gt h, ?_⟩⟩
  · exact if_pos (BitVec.eq_of_toNat_eq h)
  · rw [litCount, toNat_countField, Nat.mod_eq_of_lt h]
  · have hbyte := c.isLt
    rw [repCount, toNat_countField]
    omega

/-- Settles O16: RSVD is the fault, and the fetch has moved SRC_PC one past the byte. -/
theorem reservedByteFaultsAtItsIndex : Obligations.ReservedByteFaultsAtItsIndex := by
  unfold Obligations.ReservedByteFaultsAtItsIndex
  exact ⟨fun _ => rfl, fun s hruns hroom hspan hc => (step_of_fetched_byte hruns hroom hspan hc).trans rfl⟩

/-! ### Ends and waits -/

theorem pixelStep_of_last {s : State} (h : s.npix ≤ s.pix) : pixelStep s = .next { s with phase := .done } :=
  if_neg h.not_gt

/-- Outside BUSY the block does not move (R240). -/
theorem blockStep_of_not_busy {s : State} (h : s.phase ≠ .busy) : blockStep s = .next s := by
  unfold blockStep
  split
  · exact absurd ‹_› h
  all_goals rfl

/-- Settles O41: the loop's test fails, no pixel is left, or no unit runs. -/
theorem sequencerEndsUnitsAndWaits : Obligations.SequencerEndsUnitsAndWaits := by
  unfold Obligations.SequencerEndsUnitsAndWaits
  refine fun s hd => ⟨fun hb hst hstop => ?_, fun hb hst hlast => ?_, fun hb => ?_⟩
  · obtain ⟨hstep, hunit⟩ := step_of_runs ⟨hb, hd, List.mem_singleton.mpr hst⟩
    rw [hstep, unitStep, hunit]
    exact rleStep_of_stop (by simpa using hstop)
  · obtain ⟨hstep, hunit⟩ := step_of_runs ⟨hb, hd, List.mem_singleton.mpr hst⟩
    rw [hstep, unitStep, hunit]
    exact pixelStep_of_last (by simpa using hlast)
  · rw [step_of_due_none hd]
    exact blockStep_of_not_busy (by simpa using hb)

end Sys2Proof.Machine
end

section
/-!
PROOFS. DEINT. The bit positions of PB are numbered in the order in which R152 reads them; the loops are followed by how
many of these positions are in the pixel codes, up to the end of PB or up to the first needed byte that is missing.
-/

namespace Sys2Proof.Machine

/-! ### The order of the places DEINT needs -/

theorem rowBytes_le_pitch (s : State) : s.rowBytes ≤ s.pitch := by
  obtain ⟨-, -, -, -, -, h, -⟩ := pitchIsEvenAndCoversTheRow s
  exact h

/-- The byte of a real column is needed. -/
theorem needs_of_column {s : State} {y p x : Nat} (hy : y < s.height.toNat) (hp : p < s.nplanes.toNat)
    (hx : x < s.width.toNat) : s.needs y p (x / 8) := by
  have hrow : s.rowBytes = (s.width.toNat + 7) / 8 := rfl
  exact ⟨hy, hp, by omega⟩

/-- PBOFF tells the places of the buffer apart. -/
theorem pbOff_inj {s : State} {y p i y' p' i' : Nat} (hp : p < s.nplanes.toNat) (hi : i < s.pitch)
    (hp' : p' < s.nplanes.toNat) (hi' : i' < s.pitch) (h : s.pbOff y p i = s.pbOff y' p' i') :
    y = y' ∧ p = p' ∧ i = i' := by
  by_contra hne
  have horder : (y < y' ∨ (y = y' ∧ (p < p' ∨ (p = p' ∧ i < i')))) ∨
      (y' < y ∨ (y' = y ∧ (p' < p ∨ (p' = p ∧ i' < i)))) := by omega
  rcases horder with hlt | hgt
  · exact (pbOff_lt_pbOff hp hi hlt).ne h
  · exact (pbOff_lt_pbOff hp' hi' hgt).ne' h

/-- The plane rows of a scanline end where the next scanline starts. -/
theorem pbOff_nplanes (s : State) (y : Nat) : s.pbOff y s.nplanes.toNat 0 = s.pbOff (y + 1) 0 0 := by
  rw [pbOff_eq, pbOff_eq]
  ring

/-- No needed place lies in the pad at the end of a plane row. -/
theorem pbOff_lt_rowEnd {s : State} {y p y' p' i' : Nat} (hp : p < s.nplanes.toNat) (hneed : s.needs y' p' i')
    (h : s.pbOff y' p' i' < s.pbOff y (p + 1) 0) : s.pbOff y' p' i' < s.pbOff y p s.rowBytes := by
  obtain ⟨-, hp', hi'⟩ := hneed
  have hpad := rowBytes_le_pitch s
  by_cases hbefore : y' < y ∨ (y' = y ∧ (p' < p ∨ (p' = p ∧ i' < s.rowBytes)))
  · exact pbOff_lt_pbOff hp' (by omega) hbefore
  · have hlater : s.pbOff y p (s.pitch - 1) < s.pbOff y' p' i' := pbOff_lt_pbOff hp (by omega) (by omega)
    have hnext : s.pbOff y (p + 1) 0 = s.pbOff y p (s.pitch - 1) + 1 := by
      rw [pbOff_eq, pbOff_eq, ← Nat.add_assoc, Nat.succ_mul]
      omega
    omega

/-! ### The body that is long enough (R153) -/

/-- Where the needed bytes of the last plane row end. -/
theorem pbOff_lastRow_rowBytes {s : State} (hh : 0 < s.height.toNat) (hp : 0 < s.nplanes.toNat) :
    s.pbOff (s.height.toNat - 1) (s.nplanes.toNat - 1) s.rowBytes = s.pbSize - (s.pitch - s.rowBytes) := by
  have hrows : s.height.toNat * s.nplanes.toNat =
      (s.height.toNat - 1) * s.nplanes.toNat + (s.nplanes.toNat - 1) + 1 := by
    obtain ⟨h, hh⟩ := Nat.exists_eq_add_of_lt hh
    rw [hh, Nat.zero_add, Nat.add_sub_cancel, Nat.succ_mul]
    omega
  have hpad := rowBytes_le_pitch s
  rw [pbOff_eq, pbSize_eq, hrows, Nat.succ_mul]
  omega

/-- Settles O25: the last needed byte of the last plane row is the largest needed one. -/
theorem bodyLongEnoughIffAllButTheLastPad : Obligations.BodyLongEnoughIffAllButTheLastPad := by
  unfold Obligations.BodyLongEnoughIffAllButTheLastPad
  intro s
  have hrow : s.rowBytes = (s.width.toNat + 7) / 8 := rfl
  have hpad := rowBytes_le_pitch s
  simp only [BitVec.toNat_eq, BitVec.ofNat_eq_ofNat, BitVec.toNat_ofNat, Nat.zero_mod]
  constructor
  · intro hlong
    by_cases hempty : s.height.toNat = 0 ∨ s.nplanes.toNat = 0 ∨ s.width.toNat = 0
    · tauto
    · have hlast := hlong (s.height.toNat - 1) (s.nplanes.toNat - 1) (s.rowBytes - 1)
        ⟨by omega, by omega, by omega⟩
      rw [← pbOff_lastRow_rowBytes (by omega) (by omega)]
      rw [pbOff_eq] at hlast ⊢
      omega
  · rintro hlong y p i ⟨hy, hp, hi⟩
    have hfill : s.pbSize - (s.pitch - s.rowBytes) ≤ s.pbFill := by omega
    rw [← pbOff_lastRow_rowBytes (by omega) (by omega)] at hfill
    exact (pbOff_lt_pbOff hp (by omega) (by omega)).trans_le hfill

/-! ### The plane bytes -/

/-- PBYTE gives a byte at `a`: it was written, or the policy makes it 0 (R153). -/
def State.readable (s : State) (a : Nat) : Prop := a < s.pbFill ∨ s.cfg.shortBody = .zero

theorem pbyte_of_readable {s : State} {a : Nat} (hpb : memFilled s.pb s.pbFill = true) (h : s.readable a)
    (k : Byte → Flow) : s.pbyte a k = k (s.planeByte a) := by
  unfold State.pbyte State.planeByte
  split
  · obtain ⟨v, hv⟩ := memRead_of_memFilled hpb ‹_›
    rw [readOrStuck_of_some _ hv, hv, Option.getD_some]
  · rw [h.resolve_left ‹_›]

theorem pbyte_of_missing {s : State} {a : Nat} (h : ¬ s.readable a) (k : Byte → Flow) :
    s.pbyte a k = .raised (s.raise .planeUnderrun a) := by
  obtain ⟨hfill, hpolicy⟩ := not_or.mp h
  rw [State.pbyte, if_neg hfill]
  cases hp : s.cfg.shortBody with
  | fault => rfl
  | zero => exact absurd hp hpolicy

theorem deintByte_of_readable {s t : State} {y p i : Nat} (h : CodesOnly s t) (hpb : memFilled s.pb s.pbFill = true)
    (hread : s.readable (s.pbOff y p i)) :
    deintByte y p i t = forEach (deintBit y p i (s.planeByte (s.pbOff y p i))) 8 0 t := by
  obtain ⟨cb, rfl⟩ := h
  exact pbyte_of_readable (s := { s with cb := cb }) hpb hread _

theorem deintByte_of_missing {s t : State} {y p i : Nat} (h : CodesOnly s t) (hmiss : ¬ s.readable (s.pbOff y p i)) :
    deintByte y p i t = .raised (t.raise .planeUnderrun (s.pbOff y p i)) := by
  obtain ⟨cb, rfl⟩ := h
  exact pbyte_of_missing (s := { s with cb := cb }) hmiss _

/-! ### The bits of the pixel codes -/

/-- The number of a column's bit of plane `p` of scanline `y`, in the order of R152: leftmost bit first. -/
def State.bitOff (s : State) (y p x : Nat) : Nat := 8 * s.pbOff y p (x / 8) + x % 8

/-- The bit that R151 takes from plane `p` for column `x` of scanline `y`. -/
def State.planeBit (s : State) (y p x : Nat) : Bool := (s.planeByte (s.pbOff y p (x / 8))).getLsbD (7 - x % 8)

/-- Bit `p` of the code at column `x` of scanline `y` when the first `n` bits of the planes are in CB. -/
def State.codeBit (s : State) (n y p x : Nat) : Bool :=
  decide (p < s.nplanes.toNat ∧ s.bitOff y p x < n) && s.planeBit y p x

/-- The bit of number `8 * PBOFF(y, p, i) + k` is column `i * 8 + k`'s. -/
theorem bitOff_column (s : State) (y p i : Nat) {k : Nat} (hk : k < 8) :
    s.bitOff y p (i * 8 + k) = 8 * s.pbOff y p i + k := by
  rw [State.bitOff, show (i * 8 + k) / 8 = i by omega, show (i * 8 + k) % 8 = k by omega]

theorem planeBit_column (s : State) (y p i : Nat) {k : Nat} (hk : k < 8) :
    s.planeBit y p (i * 8 + k) = (s.planeByte (s.pbOff y p i)).getLsbD (7 - k) := by
  rw [State.planeBit, show (i * 8 + k) / 8 = i by omega, show (i * 8 + k) % 8 = k by omega]

theorem bitOff_inj {s : State} {y p x y' p' x' : Nat} (hp : p < s.nplanes.toNat) (hx : x / 8 < s.pitch)
    (hp' : p' < s.nplanes.toNat) (hx' : x' / 8 < s.pitch) (h : s.bitOff y p x = s.bitOff y' p' x') :
    y = y' ∧ p = p' ∧ x = x' := by
  unfold State.bitOff at h
  have hoff : s.pbOff y p (x / 8) = s.pbOff y' p' (x' / 8) := by omega
  obtain ⟨hyy, hpp, hbyte⟩ := pbOff_inj hp hx hp' hx' hoff
  subst hyy hpp
  rw [hbyte] at h
  exact ⟨rfl, rfl, by omega⟩

theorem codeBit_congr {s : State} {n n' y q x : Nat}
    (h : q < s.nplanes.toNat → (s.bitOff y q x < n ↔ s.bitOff y q x < n')) :
    s.codeBit n y q x = s.codeBit n' y q x := by
  rw [State.codeBit, State.codeBit, decide_eq_decide.mpr (and_congr_right h)]

/-- One more bit leaves every other bit of the codes as it is. -/
theorem codeBit_succ_of_ne {s : State} {y p x y' p' x' : Nat} (hp : p < s.nplanes.toNat) (hx : x / 8 < s.pitch)
    (hx' : x' / 8 < s.pitch) (hne : ¬ (y' = y ∧ p' = p ∧ x' = x)) :
    s.codeBit (s.bitOff y p x + 1) y' p' x' = s.codeBit (s.bitOff y p x) y' p' x' := by
  refine codeBit_congr fun hp' => ?_
  have hother : s.bitOff y' p' x' ≠ s.bitOff y p x := fun h => hne (bitOff_inj hp' hx' hp hx h)
  omega

/-- A bit's own turn puts it into the codes. -/
theorem codeBit_succ_self {s : State} {p : Nat} (hp : p < s.nplanes.toNat) (y x : Nat) :
    s.codeBit (s.bitOff y p x + 1) y p x = s.planeBit y p x := by
  rw [State.codeBit, decide_eq_true ⟨hp, Nat.lt_succ_self _⟩, Bool.true_and]

/-- Before its turn a bit is not in the codes. -/
theorem codeBit_self (s : State) (y p x : Nat) : s.codeBit (s.bitOff y p x) y p x = false := by
  rw [State.codeBit, decide_eq_false fun h => Nat.lt_irrefl _ h.2, Bool.false_and]

theorem codeBit_of_clear {s : State} {y p x : Nat} (h : s.planeBit y p x = false) (n : Nat) :
    s.codeBit n y p x = false := by
  rw [State.codeBit, h, Bool.and_false]

/-- The pad at the end of a plane row holds no bit of a code. -/
theorem codeBit_rowEnd {s : State} {y p y' x' : Nat} (hp : p < s.nplanes.toNat) (hy' : y' < s.height.toNat)
    (hx' : x' < s.width.toNat) (q : Nat) :
    s.codeBit (8 * s.pbOff y (p + 1) 0) y' q x' = s.codeBit (8 * s.pbOff y p s.rowBytes) y' q x' := by
  refine codeBit_congr fun hq => ?_
  have hskip := pbOff_lt_rowEnd (y := y) hp (needs_of_column hy' hq hx')
  have hrow : s.pbOff y p s.rowBytes ≤ s.pbOff y (p + 1) 0 := by
    have hpad := rowBytes_le_pitch s
    rw [pbOff_eq, pbOff_eq, ← Nat.add_assoc, Nat.succ_mul]
    omega
  unfold State.bitOff
  omega

/-- Setting bit `p` of a code. -/
theorem getLsbD_or_twoPow (c : Byte) (p : Nat) {q : Nat} (hq : q < 8) :
    (c ||| BitVec.ofNat 8 (2 ^ p)).getLsbD q = (c.getLsbD q || decide (p = q)) := by
  rw [BitVec.getLsbD_or, BitVec.getLsbD_ofNat, Nat.testBit_two_pow, decide_eq_true hq, Bool.true_and]

/-! ### The codes while DEINT runs -/

/-- `t` is `s` but for CB, whose codes hold the first `n` bits of the planes and which is as before beyond the image. -/
def CodesBelow (s : State) (n : Nat) (t : State) : Prop :=
  ∃ cb, t = { s with cb := cb } ∧
    (∀ y < s.height.toNat, ∀ x < s.width.toNat, ∃ c, memRead cb (y * s.width.toNat + x) = some c ∧
      ∀ q < 8, c.getLsbD q = s.codeBit n y q x) ∧
    ∀ a, s.npix ≤ a → memRead cb a = memRead s.cb a

theorem CodesBelow.only {s t : State} {n : Nat} (h : CodesBelow s n t) : CodesOnly s t := by
  obtain ⟨cb, hcb, -⟩ := h
  exact ⟨cb, hcb⟩

theorem CodesBelow.congr {s t : State} {n n' : Nat} (h : CodesBelow s n t)
    (hbits : ∀ y < s.height.toNat, ∀ x < s.width.toNat, ∀ q, s.codeBit n' y q x = s.codeBit n y q x) :
    CodesBelow s n' t := by
  obtain ⟨cb, rfl, hcodes, hframe⟩ := h
  refine ⟨cb, rfl, fun y hy x hx => ?_, hframe⟩
  obtain ⟨c, hc, hcode⟩ := hcodes y hy x hx
  exact ⟨c, hc, fun q hq => by rw [hbits y hy x hx, hcode q hq]⟩

/-- The clearing pass leaves every code of the image 0. -/
theorem deintClear_codes (s : State) :
    (forEach deintClear s.npix 0 s).Ends (CodesBelow s 0) (fun _ => False) (fun _ => False) := by
  refine (forEach_ends (fun k t => ∃ cb, t = { s with cb := cb } ∧ (∀ a < k, memRead cb a = some 0) ∧
    ∀ a, s.npix ≤ a → memRead cb a = memRead s.cb a) _ _ s.npix 0 s ⟨s.cb, rfl, by omega, fun _ _ => rfl⟩
    ?_).imp ?_ (fun _ h => h) (fun _ h => h)
  · rintro k _ - hk ⟨cb, rfl, hzero, hframe⟩
    refine ⟨memWrite cb k 0, rfl, fun a ha => ?_, fun a ha => ?_⟩
    · rw [memRead_memWrite]
      split
      · rfl
      · exact hzero a (by omega)
    · rw [memRead_memWrite_of_ne _ _ (by omega), hframe a ha]
  · rintro _ ⟨cb, rfl, hzero, hframe⟩
    refine ⟨cb, rfl, fun y hy x hx => ⟨0, hzero _ ?_, fun q _ => ?_⟩, hframe⟩
    · rw [Nat.zero_add]
      exact pixel_lt_npix hy hx
    · rw [State.codeBit, decide_eq_false fun h => Nat.not_lt_zero _ h.2, Bool.false_and]
      exact BitVec.getLsbD_zero

/-- The pixels of the image have places of their own in CB. -/
theorem pixel_inj {w y x y' x' : Nat} (hx : x < w) (hx' : x' < w) (h : y * w + x = y' * w + x') :
    y = y' ∧ x = x' := by
  rcases Nat.lt_trichotomy y y' with hlt | rfl | hgt
  · exact absurd h (mul_add_lt_of_lt hlt hx x').ne
  · exact ⟨rfl, by omega⟩
  · exact absurd h (mul_add_lt_of_lt hgt hx' x).ne'

/-- Setting a bit whose turn it is, in the code of its pixel. -/
theorem CodesBelow.set {s t : State} {y p x : Nat} {c : Byte} (h : CodesBelow s (s.bitOff y p x) t)
    (hy : y < s.height.toNat) (hp : p < s.nplanes.toNat) (hx : x < s.width.toNat) (hbit : s.planeBit y p x = true)
    (hc : memRead t.cb (y * s.width.toNat + x) = some c) :
    CodesBelow s (s.bitOff y p x + 1) (t.storeCb (y * s.width.toNat + x) (c ||| BitVec.ofNat 8 (2 ^ p))) := by
  obtain ⟨cb, rfl, hcodes, hframe⟩ := h
  have hpitch : ∀ {x}, x < s.width.toNat → x / 8 < s.pitch := fun hx =>
    (needs_of_column hy hp hx).2.2.trans_le (rowBytes_le_pitch s)
  refine ⟨_, rfl, fun y' hy' x' hx' => ?_, fun a ha => ?_⟩
  · obtain ⟨c', hc', hcode⟩ := hcodes y' hy' x' hx'
    by_cases hpix : y * s.width.toNat + x = y' * s.width.toNat + x'
    · obtain ⟨rfl, rfl⟩ := pixel_inj hx hx' hpix
      obtain rfl : c = c' := Option.some.inj (hc.symm.trans hc')
      refine ⟨_, memRead_memWrite_self _ _ _, fun q hq => ?_⟩
      rw [getLsbD_or_twoPow c p hq, hcode q hq]
      by_cases hpq : p = q
      · subst hpq
        rw [codeBit_succ_self hp, hbit, decide_eq_true rfl, Bool.or_true]
      · rw [codeBit_succ_of_ne hp (hpitch hx) (hpitch hx) (by tauto), decide_eq_false hpq, Bool.or_false]
    · refine ⟨c', (memRead_memWrite_of_ne _ _ hpix).trans hc', fun q hq => ?_⟩
      rw [hcode q hq, codeBit_succ_of_ne hp (hpitch hx) (hpitch hx')]
      rintro ⟨rfl, -, rfl⟩
      exact hpix rfl
  · have hin := pixel_lt_npix hy hx
    exact (memRead_memWrite_of_ne _ _ (by omega)).trans (hframe a ha)

/-- A bit that is clear or has no pixel changes no code (R154). -/
theorem CodesBelow.skip {s t : State} {y p x : Nat} (h : CodesBelow s (s.bitOff y p x) t) (hp : p < s.nplanes.toNat)
    (hpitch : x / 8 < s.pitch) (hskip : ¬ (x < s.width.toNat ∧ s.planeBit y p x = true)) :
    CodesBelow s (s.bitOff y p x + 1) t := by
  refine h.congr fun y' hy' x' hx' q => ?_
  by_cases hself : y' = y ∧ q = p ∧ x' = x
  · obtain ⟨rfl, rfl, rfl⟩ := hself
    have hclear : s.planeBit y' q x' = false := by simpa [hx'] using hskip
    rw [codeBit_of_clear hclear, codeBit_of_clear hclear]
  · have hpitch' := (needs_of_column hy' hp hx').2.2.trans_le (rowBytes_le_pitch s)
    exact codeBit_succ_of_ne hp hpitch hpitch' hself

/-- Bit `7 - k` of a plane byte. -/
theorem deintBit_codes {s t : State} {y p i k : Nat} (hneed : s.needs y p i) (hk : k < 8)
    (h : CodesBelow s (8 * s.pbOff y p i + k) t) :
    (deintBit y p i (s.planeByte (s.pbOff y p i)) k t).Ends (CodesBelow s (8 * s.pbOff y p i + (k + 1)))
      (fun _ => False) (fun _ => False) := by
  obtain ⟨hy, hp, hi⟩ := hneed
  have hpitch : (i * 8 + k) / 8 < s.pitch := by
    have hpad := rowBytes_le_pitch s
    omega
  have hwidth : t.width = s.width := by
    obtain ⟨cb, rfl⟩ := h.only
    rfl
  rw [← bitOff_column s y p i hk] at h
  rw [← Nat.add_assoc, ← bitOff_column s y p i hk, deintBit, ← planeBit_column s y p i hk, hwidth]
  split
  · rename_i hset
    obtain ⟨c, hc⟩ : ∃ c, memRead t.cb (y * s.width.toNat + (i * 8 + k)) = some c := by
      obtain ⟨cb, rfl, hcodes, -⟩ := h
      obtain ⟨c, hc, -⟩ := hcodes y hy _ hset.1
      exact ⟨c, hc⟩
    rw [readOrStuck_of_some _ hc]
    exact h.set hy hp hset.1 hset.2 hc
  · rename_i hskip
    exact h.skip hp hpitch hskip

/-! ### The loops of R152 -/

/-- DEINT has come to offset `a` of PB: the bits of the bytes before it are in the codes, and all of these bytes that
it needs could be read. -/
def DeintAt (s : State) (a : Nat) (t : State) : Prop :=
  CodesBelow s (8 * a) t ∧ ∀ y p i, s.needs y p i → s.pbOff y p i < a → s.readable (s.pbOff y p i)

/-- DEINT faulted at the first needed byte that is missing, with its offset, and has changed nothing else but the codes
of the image. -/
def DeintUnderrun (s t : State) : Prop :=
  ∃ y p i, s.needs y p i ∧ ¬ s.readable (s.pbOff y p i) ∧
    (∀ y' p' i', s.needs y' p' i' → s.pbOff y' p' i' < s.pbOff y p i → s.readable (s.pbOff y' p' i')) ∧
    ∃ cb, t = ({ s with cb := cb } : State).raise .planeUnderrun (s.pbOff y p i) ∧
      ∀ a, s.npix ≤ a → memRead cb a = memRead s.cb a

section

variable {s : State} (hpb : memFilled s.pb s.pbFill = true)

include hpb

/-- A needed byte: its bits go into the codes, or it is the first that is missing. -/
theorem deintByte_advances {t : State} {y p i : Nat} (hneed : s.needs y p i) (h : DeintAt s (s.pbOff y p i) t) :
    (deintByte y p i t).Ends (DeintAt s (s.pbOff y p (i + 1))) (DeintUnderrun s) (fun _ => False) := by
  obtain ⟨hcodes, hread⟩ := h
  by_cases hbyte : s.readable (s.pbOff y p i)
  · have hread' : ∀ y' p' i', s.needs y' p' i' → s.pbOff y' p' i' < s.pbOff y p (i + 1) →
        s.readable (s.pbOff y' p' i') := fun y' p' i' hneed' hlt => by
      rcases Nat.lt_succ_iff_lt_or_eq.mp hlt with hbefore | heq
      · exact hread y' p' i' hneed' hbefore
      · exact heq ▸ hbyte
    have hbits := forEach_ends (body := deintBit y p i (s.planeByte (s.pbOff y p i)))
      (fun k => CodesBelow s (8 * s.pbOff y p i + k)) _ _ 8 0 _ hcodes
      (fun k u _ hk hu => deintBit_codes hneed (by omega) hu)
    rw [deintByte_of_readable hcodes.only hpb hbyte]
    exact hbits.imp (fun u hu => ⟨hu, hread'⟩) (fun _ h => h.elim) (fun _ h => h)
  · rw [deintByte_of_missing hcodes.only hbyte]
    obtain ⟨cb, rfl, -, hframe⟩ := hcodes
    exact ⟨y, p, i, hneed, hbyte, hread, cb, rfl, hframe⟩

/-- A plane row: after its needed bytes comes its pad. -/
theorem deintPlane_advances {t : State} {y p : Nat} (hy : y < s.height.toNat) (hp : p < s.nplanes.toNat)
    (h : DeintAt s (s.pbOff y p 0) t) :
    (deintPlane y p t).Ends (DeintAt s (s.pbOff y (p + 1) 0)) (DeintUnderrun s) (fun _ => False) := by
  have hbytes : t.rowBytes = s.rowBytes := by
    obtain ⟨cb, rfl⟩ := h.1.only
    rfl
  rw [deintPlane, hbytes]
  refine (forEach_ends (fun i => DeintAt s (s.pbOff y p i)) _ _ s.rowBytes 0 t h
    (fun i u _ hi hu => deintByte_advances hpb ⟨hy, hp, by omega⟩ hu)).imp ?_ (fun _ h => h) (fun _ h => h)
  rw [Nat.zero_add]
  rintro u ⟨hcodes, hread⟩
  exact ⟨hcodes.congr fun y' hy' x' hx' q => codeBit_rowEnd hp hy' hx' q,
    fun y' p' i' hneed' hlt => hread y' p' i' hneed' (pbOff_lt_rowEnd hp hneed' hlt)⟩

theorem deintRow_advances {t : State} {y : Nat} (hy : y < s.height.toNat) (h : DeintAt s (s.pbOff y 0 0) t) :
    (deintRow y t).Ends (DeintAt s (s.pbOff (y + 1) 0 0)) (DeintUnderrun s) (fun _ => False) := by
  have hplanes : t.nplanes = s.nplanes := by
    obtain ⟨cb, rfl⟩ := h.1.only
    rfl
  rw [deintRow, hplanes, ← pbOff_nplanes]
  have hloop := forEach_ends (body := deintPlane y) (fun p => DeintAt s (s.pbOff y p 0)) _ _ s.nplanes.toNat 0 t h
    (fun p u _ hp hu => deintPlane_advances hpb hy (by omega) hu)
  rwa [Nat.zero_add] at hloop

/-- R152 runs to the end of PB or to the first needed byte that is missing. -/
theorem deintAll_advances : (deintAll s).Ends (DeintAt s s.pbSize) (DeintUnderrun s) (fun _ => False) := by
  refine Flow.Ends.andThen ((deintClear_codes s).imp (fun t ht => ?_) (fun _ h => h.elim) (fun _ h => h))
  have hheight : t.height = s.height := by
    obtain ⟨cb, rfl⟩ := ht.only
    rfl
  have hstart : s.pbOff 0 0 0 = 0 := by rw [pbOff_eq, Nat.zero_mul, Nat.zero_mul]
  have hend : s.pbSize = s.pbOff (0 + s.height.toNat) 0 0 := by
    rw [pbOff_eq, pbSize_eq, Nat.zero_add, Nat.add_zero, Nat.add_zero]
  rw [hheight, hend]
  refine forEach_ends (fun y => DeintAt s (s.pbOff y 0 0)) _ _ _ 0 t ?_
    (fun y u _ hy hu => deintRow_advances hpb (by omega) hu)
  rw [hstart]
  exact ⟨ht, fun _ _ _ _ h => absurd h (Nat.not_lt_zero _)⟩

/-- The two ends of DEINT as an instruction. -/
theorem execDeint_advances : (∃ t, execDeint s = .next (t.goto .fix) ∧ DeintAt s s.pbSize t) ∨
    ∃ t, execDeint s = .next t ∧ DeintUnderrun s t := by
  have hall := deintAll_advances hpb
  unfold execDeint
  cases hflow : deintAll s <;> rw [hflow] at hall
  case goesOn t => exact .inl ⟨t, rfl, hall⟩
  case raised t => exact .inr ⟨t, rfl, hall⟩
  case stuck r => exact hall.elim

end

/-- When all of PB is in the codes, a bit of a code is the plane's bit. -/
theorem codeBit_pbSize {s : State} {y x : Nat} (hy : y < s.height.toNat) (hx : x < s.width.toNat) (q : Nat) :
    s.codeBit (8 * s.pbSize) y q x = (decide (q < s.nplanes.toNat) && s.planeBit y q x) := by
  have hall : (q < s.nplanes.toNat ∧ s.bitOff y q x < 8 * s.pbSize) ↔ q < s.nplanes.toNat := by
    refine and_iff_left_of_imp fun hq => ?_
    have hin := pbOff_lt_pbSize hy hq ((needs_of_column hy hq hx).2.2.trans_le (rowBytes_le_pitch s))
    unfold State.bitOff
    omega
  rw [State.codeBit, decide_eq_decide.mpr hall]

/-- Settles O23: no needed byte is missing, so the loops run to the end of PB. -/
theorem deintComputesThePixelCodes : Obligations.DeintComputesThePixelCodes := by
  unfold Obligations.DeintComputesThePixelCodes
  intro s hpb hlong
  rcases execDeint_advances hpb with ⟨_, hexec, ⟨cb, rfl, hcodes, hframe⟩, -⟩ |
    ⟨_, -, y, p, i, hneed, hmissing, -⟩
  · refine ⟨cb, hexec, fun y hy x hx => ?_, hframe⟩
    obtain ⟨c, hc, hcode⟩ := hcodes y hy x hx
    exact ⟨c, hc, fun q hq => (hcode q hq).trans (codeBit_pbSize hy hx q)⟩
  · have hread : s.readable (s.pbOff y p i) := hlong.symm.imp (fun h => h y p i hneed) id
    exact absurd hread hmissing

/-- Settles O24: the loops do not get past the missing byte, and the byte they fault at is as early as it. -/
theorem deintFaultsAtTheFirstMissingByte : Obligations.DeintFaultsAtTheFirstMissingByte := by
  unfold Obligations.DeintFaultsAtTheFirstMissingByte
  intro s y p i hpb hpolicy hneed hmissing hfirst
  have hunread : ¬ s.readable (s.pbOff y p i) := by
    rintro (hfill | hzero)
    · omega
    · rw [hpolicy] at hzero
      cases hzero
  rcases execDeint_advances hpb with ⟨_, -, -, hread⟩ |
    ⟨_, hexec, y', p', i', hneed', hunread', hfirst', cb, rfl, hframe⟩
  · have hin := pbOff_lt_pbSize hneed.1 hneed.2.1 (hneed.2.2.trans_le (rowBytes_le_pitch s))
    exact absurd (hread y p i hneed hin) hunread
  · have hsame : s.pbOff y' p' i' = s.pbOff y p i := by
      rcases Nat.lt_trichotomy (s.pbOff y' p' i') (s.pbOff y p i) with hlt | heq | hgt
      · exact absurd (.inl (hfirst y' p' i' hneed' hlt)) hunread'
      · exact heq
      · exact absurd (hfirst' y p i hneed hgt) hunread
    rw [hsame] at hexec
    exact ⟨cb, hexec, hframe⟩

end Sys2Proof.Machine
end

section
/-!
PROOFS. FIX (spec/43_palette_fixer.md): the doubling of R161 and the cull of R162 case by case, and from these the three
operations on the copied palette of R160.
-/

namespace Sys2Proof.Machine

/-! ### The doubling (R161) -/

theorem halfBrightDouble_of_small {s : State} (h : s.wpalCount ≤ 32) :
    s.halfBrightDouble = { s with
      wpal := forUpdate (fun k w => regWrite w (s.wpalCount + k) (halfBright (regRead w k))) s.wpalCount 0 s.wpal
      wpalCount := 2 * s.wpalCount } :=
  if_neg (Nat.not_lt.mpr h)

theorem halfBrightDouble_of_large {s : State} (h : 32 < s.wpalCount) : s.halfBrightDouble = s := if_pos h

/-- The entries after the doubling, the copies included. -/
theorem regRead_halfBrightDouble {s : State} (h : s.wpalCount ≤ 32) (k : Nat) :
    regRead s.halfBrightDouble.wpal k =
      if s.wpalCount ≤ k ∧ k < 2 * s.wpalCount then halfBright (regRead s.wpal (k - s.wpalCount))
      else regRead s.wpal k := by
  rw [halfBrightDouble_of_small h]
  exact regRead_halfBrights s.wpalCount s.wpal k

/-- The copy of R160, doubled: the loaded entries, their half-bright copies, then what stood there. -/
theorem regRead_copyPalette_halfBrightDouble {s : State} (h : s.palCount ≤ 32) (k : Nat) :
    regRead s.copyPalette.halfBrightDouble.wpal k =
      if k < s.palCount then regRead s.pal k
      else if k < 2 * s.palCount then halfBright (regRead s.pal (k - s.palCount))
      else regRead s.wpal k := by
  rw [regRead_halfBrightDouble (s := s.copyPalette) h, State.copyPalette_wpalCount]
  by_cases hloaded : k < s.palCount
  · rw [if_neg (by omega), if_pos hloaded, regRead_copyPalette, if_pos hloaded]
  · by_cases hcopy : k < 2 * s.palCount
    · rw [if_pos ⟨Nat.le_of_not_lt hloaded, hcopy⟩, if_neg hloaded, if_pos hcopy, regRead_copyPalette,
        if_pos (by omega)]
    · rw [if_neg (fun hk => hcopy hk.2), if_neg hloaded, if_neg hcopy, regRead_copyPalette, if_neg hloaded]

/-! ### The cull (R162) -/

/-- The default reading of HAM_CULL_SHIFT, its margin multiplied out. -/
theorem defaultCullShift_eq (b np : Nat) : defaultCullShift b np = 2 * (np : Int) - b - 2 := by
  simp only [defaultCullShift, Const.hamCullMargin]
  omega

theorem hamCull_of_fits {s : State} (h : s.wpalBits ≤ s.nplanes.toNat) : s.hamCull = .goesOn s :=
  if_neg (Nat.not_lt.mpr h)

section
variable {s : State} (hwide : s.nplanes.toNat < s.wpalBits)
include hwide

theorem hamCull_of_negative (h : cullShift s.cfg.hamCullShift s.wpalBits s.nplanes.toNat < 0) :
    s.hamCull = .raised (s.raise .configRange 6) :=
  (if_pos hwide).trans (if_pos h)

theorem hamCull_of_nonneg (h : 0 ≤ cullShift s.cfg.hamCullShift s.wpalBits s.nplanes.toNat) :
    s.hamCull = .goesOn { s with
      wpalCount := s.wpalCount >>> (cullShift s.cfg.hamCullShift s.wpalBits s.nplanes.toNat).toNat } := by
  rw [Nat.shiftRight_eq_div_pow]
  exact (if_pos hwide).trans (if_neg (Int.not_lt.mpr h))

end

/-! ### The operations -/

/-- Settles O28: the pass is the copy of R160 alone. -/
theorem fixPassCopiesThePalette : Obligations.FixPassCopiesThePalette := by
  unfold Obligations.FixPassCopiesThePalette
  intro s
  exact ⟨s.copyPalette.wpal, rfl, regRead_copyPalette s⟩

/-- Settles O29: the doubling of the copy, on either side of 32 entries. -/
theorem fixEhbDoublesSmallPalettes : Obligations.FixEhbDoublesSmallPalettes := by
  unfold Obligations.FixEhbDoublesSmallPalettes
  intro s
  have hexec : exec .fixEhb s = .next (s.copyPalette.halfBrightDouble.goto .comp) := rfl
  refine ⟨s.copyPalette.halfBrightDouble.wpal, fun hsmall => ⟨?_, ?_⟩, fun hlarge => ?_⟩
  · rw [hexec, halfBrightDouble_of_small (s := s.copyPalette) hsmall]
    rfl
  · exact regRead_copyPalette_halfBrightDouble hsmall
  · rw [hexec, halfBrightDouble_of_large (s := s.copyPalette) hlarge]
    exact ⟨rfl, regRead_copyPalette s⟩

/-- Settles O30: the cull of the copy, whose width is that of the loaded palette; the readings of the shift by
arithmetic. -/
theorem fixHamcullKeepsTheFirstEntries : Obligations.FixHamcullKeepsTheFirstEntries := by
  unfold Obligations.FixHamcullKeepsTheFirstEntries
  refine ⟨fun b np => ⟨defaultCullShift_eq b np, ?_⟩, ?_⟩
  · simp only [cullShift, Const.hamCullMargin]
    omega
  · rintro s b shift rfl rfl
    have hexec : exec .fixHamcull s =
      (s.copyPalette.hamCull.andThen (fun t => .goesOn (t.goto .comp))).outcome := rfl
    refine ⟨s.copyPalette.wpal, regRead_copyPalette s, fun hfits => ?_, fun hwide hshift => ?_, fun hwide hshift => ?_⟩
    · rw [hexec, hamCull_of_fits (s := s.copyPalette) hfits]
      rfl
    · rw [hexec, hamCull_of_nonneg (s := s.copyPalette) hwide hshift]
      rfl
    · rw [hexec, hamCull_of_negative (s := s.copyPalette) hwide hshift]
      rfl

end Sys2Proof.Machine
end

section
/-!
PROOFS. COMP (spec/44_pixel_compositor.md): what a pixel code writes, the step that runs a pixel's code, and the pixels
the host reads of a completed decode.
-/

namespace Sys2Proof.Machine

/-! ### The image of a completed decode (R181) -/

/-- Settles O36: in DONE the invariant makes every pixel of the image written and opaque, and FB_READ returns it. -/
theorem readPixelsAreOpaque : Obligations.ReadPixelsAreOpaque := by
  unfold Obligations.ReadPixelsAreOpaque
  intro s k hinv hd hk
  obtain ⟨-, -, -, -, -, -, himg, -⟩ := hinv
  obtain ⟨px, hpx, hopaque⟩ := (imageFilled_iff _ _).mp (himg hd) k hk
  obtain ⟨hread, -⟩ := fbReadReturnsThePixelOrRefuses s k
  exact ⟨px, hread px hd hk hpx, hopaque⟩

/-! ### The pixel codes -/

theorem memRead_emitPixel (s : State) (px : Rgba) (k : Nat) :
    memRead (s.emitPixel px).fb k = if k = s.pix then some px else memRead s.fb k := by
  rw [State.emitPixel_fb, memRead_memWrite]
  simp only [eq_comm]

theorem execIdx_of_entry {s : State} {c : Byte} (h : c.toNat < s.wpalCount) :
    execIdx c s = .next (s.emitPixel (regRead s.wpal c.toNat)) := if_neg h.not_ge

theorem execIdx_of_beyond {s : State} {c : Byte} (h : s.wpalCount ≤ c.toNat) :
    execIdx c s = .next (s.raise .paletteRange s.pix) := if_pos h

/-- What a HAM code that ends with the pixel `px` changes: FB at the loop's pixel, the loop's place and PREV (R172). -/
theorem exec_of_holdPixel {i : Instr} {s : State} {px : Rgba} (h : exec i s = .next (s.holdPixel px)) :
    ∃ fb', exec i s = .next { s with fb := fb', pix := s.pix + 1, prev := px } ∧
      ∀ k, memRead fb' k = if k = s.pix then some px else memRead s.fb k :=
  ⟨(s.holdPixel px).fb, h, memRead_emitPixel s px⟩

/-- Settles O33: HAM.SET holds the palette entry. -/
theorem hamSetEmitsTheEntry : Obligations.HamSetEmitsTheEntry := by
  unfold Obligations.HamSetEmitsTheEntry
  exact fun s c => exec_of_holdPixel rfl

/-- V8 is the shifted value within a byte (R87). -/
theorem v8_eq {b : Nat} {val v : Byte} (h : v.toNat = val.toNat * 2 ^ (8 - b) % 256) : v8 b val = v :=
  BitVec.eq_of_toNat_eq ((BitVec.toNat_ofNat _ 8).trans h.symm)

/-- Settles O34: each code holds PREV with its channel replaced by V8. -/
theorem modifyCodesReplaceOneChannel : Obligations.ModifyCodesReplaceOneChannel := by
  unfold Obligations.ModifyCodesReplaceOneChannel
  intro s b val v three _ hv p hp
  obtain rfl := v8_eq hv
  simp only [List.mem_cons, List.not_mem_nil, or_false] at hp
  rcases hp with rfl | rfl | rfl
  all_goals exact exec_of_holdPixel rfl

/-! ### The pixel loop -/

/-- In direct mode every byte is an index. -/
theorem pixelSpace_of_direct {s : State} (h : s.ham = false) : s.pixelSpace = .pixelDirect :=
  if_neg (ne_true_of_eq_false h)

theorem pixelStep_of_code {s : State} {c : Byte} {i : Instr} (hp : s.pix < s.npix) (hc : memRead s.cb s.pix = some c)
    (hi : decode s.pixelSpace (.byte c) = .ok i) : pixelStep s = exec i s.rowStart := by
  simp only [pixelStep, if_pos hp, hc, runDecoded, hi]

/-- The fetch of a pixel's code as a step. -/
theorem step_of_pixel_code {s : State} {c : Byte} {i : Instr} (h : s.runs [.pixels]) (hp : s.pix < s.npix)
    (hc : memRead s.cb s.pix = some c) (hi : decode s.pixelSpace (.byte c) = .ok i) :
    step s = exec i s.tick.rowStart := by
  obtain ⟨hstep, hunit⟩ := step_of_runs h
  rw [hstep, unitStep, hunit]
  exact pixelStep_of_code (by simpa using hp) (by simpa using hc) (by simpa using hi)

/-- The row start of R172 in the ticked state, by the state before. -/
theorem rowStart_tick (s : State) : s.tick.rowStart =
    if s.ham = true ∧ s.pix % s.width.toNat = 0 then s.tick.setPrev Const.rowStart else s.tick := by
  rw [State.rowStart, State.tick_ham, State.tick_pix, State.tick_width]

/-- Settles O38: the fetch, at the row start of R172. -/
theorem stepRunsThePixelCode : Obligations.StepRunsThePixelCode := by
  unfold Obligations.StepRunsThePixelCode
  intro s c i hruns hp hc hi
  exact (step_of_pixel_code hruns hp hc hi).trans (congrArg (exec i) (rowStart_tick s))

/-- Settles O32: the two sides of R171's test, and the loop in direct mode, where the row start does nothing. -/
theorem idxLooksUpOrFaults : Obligations.IdxLooksUpOrFaults := by
  unfold Obligations.IdxLooksUpOrFaults
  refine fun s c => ⟨fun hentry => ?_, execIdx_of_beyond, rfl, fun hruns hdirect => ⟨fun hp hc => ?_, fun hlast => ?_⟩⟩
  · exact ⟨_, execIdx_of_entry hentry, memRead_emitPixel s _⟩
  · have hidx : decode s.pixelSpace (.byte c) = .ok (.idx c) := by rw [pixelSpace_of_direct hdirect]; rfl
    rw [step_of_pixel_code hruns hp hc hidx, rowStart_of_direct (s.tick_ham.trans hdirect)]
  · obtain ⟨hb, hd, hst⟩ := hruns
    obtain ⟨-, hends, -⟩ := sequencerEndsUnitsAndWaits s hd
    exact hends hb (List.mem_singleton.mp hst) hlast

end Sys2Proof.Machine
end

section
/-!
PROOFS. A session of the host on the block: the commands it issues, its wait for the end of the decode, and what it
reads of a decode that has ended.
-/

namespace Sys2Proof.Machine

/-! ### What the host issues, and that START is the last of it -/

/-- What every chunk keeps, and so does the anomaly of a cut one, holds after the whole parsing. -/
theorem chunkLoop_induction {P : HostSession → Prop} (hchunk : ∀ h tag payload, P h → P (h.chunk tag payload))
    (hmalformed : ∀ h, P h → P h.malformed) (fuel : Nat) (bs : List Byte) {h : HostSession} (hp : P h) :
    P (chunkLoop fuel bs h) := by
  induction fuel generalizing bs h with
  | zero => exact hp
  | succ fuel ih =>
    unfold chunkLoop
    dsimp only
    split
    · exact hp
    split
    · exact hmalformed h hp
    split
    · exact hmalformed h hp
    split
    · exact hchunk _ _ _ hp
    · exact ih _ (hchunk _ _ _ hp)

/-- Once the pixel data has been met, START is the last command. -/
def HostSession.StartLast (h : HostSession) : Prop := h.bodySeen = true → [Instr.start] <:+ h.commands

theorem HostSession.issue_of_bodySeen {h : HostSession} (hb : h.bodySeen = true) (cmds : List Instr) :
    h.issue cmds = h := if_pos hb

theorem HostSession.issue_of_no_body {h : HostSession} (hb : h.bodySeen = false) (cmds : List Instr) :
    h.issue cmds = { h with commands := h.commands ++ cmds } := if_neg (by simp [hb])

/-- Nothing is issued after START. -/
theorem HostSession.StartLast.issue {h : HostSession} (hp : h.StartLast) (cmds : List Instr) :
    (h.issue cmds).StartLast := by
  cases hb : h.bodySeen with
  | true => rwa [issue_of_bodySeen hb]
  | false =>
    rw [issue_of_no_body hb]
    exact fun hseen => absurd (hb.symm.trans hseen) (by decide)

/-- The pixel data ends with START. -/
theorem HostSession.StartLast.body {h : HostSession} (hp : h.StartLast) (cmds : List Instr) :
    HostSession.StartLast { h.issue (cmds ++ [.start]) with bodySeen := true } := by
  intro _
  cases hb : h.bodySeen with
  | true => rw [issue_of_bodySeen hb]; exact hp hb
  | false =>
    rw [issue_of_no_body hb]
    exact ⟨h.commands ++ cmds, List.append_assoc _ _ _⟩

theorem HostSession.StartLast.takeHeader {h : HostSession} (hp : h.StartLast) (hd : BitmapHeader) :
    (h.takeHeader hd).StartLast := by
  unfold HostSession.takeHeader
  split
  · exact hp
  · exact HostSession.StartLast.issue (h := { h with header := some hd }) hp _

/-- Every chunk, by its kind. -/
theorem HostSession.StartLast.dispatch {h : HostSession} (hp : h.StartLast) (tag payload : List Byte) :
    (h.dispatch tag payload).StartLast := by
  unfold HostSession.dispatch
  split
  · split
    · exact hp
    · exact hp.takeHeader _
  · exact hp.issue _
  · split
    · exact hp
    · exact hp.issue _
  · exact hp.body (.srcClear :: payload.map .srcPush)
  · split <;> exact hp
  · exact hp

theorem hostDecode_startLast (p : HostParams) (file : List Byte) : (hostDecode p file).StartLast := by
  unfold hostDecode
  dsimp only
  split
  · exact nofun
  · exact chunkLoop_induction
      (fun h tag payload hp => HostSession.StartLast.dispatch (h := h.record tag payload) hp tag payload)
      (fun _ hp => hp) _ _ nofun

/-! ### The commands on the block -/

/-- In a good state a host command answers, and leaves a good state. -/
theorem issueCommand_keeps {cmd : Instr} (hc : cmd.isHostCommand = true) {s : State} (hinv : StateInv s) :
    ∃ t, issueCommand cmd s = .next t ∧ StateInv t := by
  have hsent : StateInv { s with inbox := [⟨0, cmd⟩] } := stateInv_inbox hinv (by simp [hc])
  obtain ⟨t, ht⟩ := stepNeverStopsInGoodStates _ hsent
  exact ⟨t, ht, everyStepKeepsTheInvariant _ t hsent ht⟩

theorem issueAll_keeps {cmds : List Instr} (hcmds : cmds.all Instr.isHostCommand = true) {s : State}
    (hinv : StateInv s) : ∃ t, issueAll cmds s = .next t ∧ StateInv t := by
  induction cmds generalizing s with
  | nil => exact ⟨s, rfl, hinv⟩
  | cons cmd cmds ih =>
    rw [List.all_cons, Bool.and_eq_true] at hcmds
    obtain ⟨hcmd, hrest⟩ := hcmds
    obtain ⟨t, ht, hinvt⟩ := issueCommand_keeps hcmd hinv
    rw [issueAll, ht, Exchange.next_andThen]
    exact ih hrest hinvt

/-- An exchange that ends with a value had one after its first part. -/
theorem Exchange.next_of_andThen {α β : Type} {x : Exchange α} {k : α → Exchange β} {b : β}
    (h : x.andThen k = .next b) : ∃ a, x = .next a ∧ k a = .next b := by
  cases x with
  | next a => exact ⟨a, rfl, h⟩
  | fault _ | refused _ => cases h

/-- In IDLE, START launches the decode or faults; elsewhere it is dropped. -/
theorem execStart_not_idle {s t : State} (h : execStart s = .next t) : t.phase ≠ .idle := by
  by_cases hp : s.phase = .idle
  · rcases execStart_cases hp h with ⟨f, info, rfl⟩ | ⟨rfl, -⟩ <;> nofun
  · rw [execStart, if_pos hp] at h
    cases h
    exact hp

/-- After commands of which START is the last the block is not in IDLE. -/
theorem issueAll_not_idle {cmds : List Instr} (hlast : [Instr.start] <:+ cmds) {s t : State}
    (h : issueAll cmds s = .next t) : t.phase ≠ .idle := by
  obtain ⟨before, rfl⟩ := hlast
  rw [issueAll_append] at h
  obtain ⟨u, -, hu⟩ := Exchange.next_of_andThen h
  obtain ⟨t', hstart, hend⟩ := Exchange.next_of_andThen hu
  cases hend
  rw [issueCommand_eq rfl] at hstart
  exact execStart_not_idle hstart

/-! ### What a read leaves -/

/-- The block after a read by the host: it has given a reply, nothing is on its way, and all else is as it was. -/
def State.replied (s : State) (r : Option Reply) : State := { s with inbox := [], reply := r }

section

variable (s : State) (r : Option Reply)

@[simp] theorem State.replied_replied (r' : Option Reply) : (s.replied r).replied r' = s.replied r' := rfl
@[simp] theorem State.replied_phase : (s.replied r).phase = s.phase := rfl
@[simp] theorem State.replied_regValue (no : Nat) : (s.replied r).regValue no = s.regValue no := by
  unfold State.regValue
  split <;> rfl

end

theorem stateInv_replied {s : State} (hinv : StateInv s) (r : Option Reply) : StateInv (s.replied r) :=
  stateInv_of_readFrame (stateInv_inbox hinv (l := []) rfl) ⟨r, s.freeCount, s.cmdErr, rfl, id⟩

/-- The registers the host reads in a session are exact in every phase. -/
theorem readRegister_replied {no : Nat} (hno : no ≤ 8) (s : State) :
    readRegister no s = .next (s.regValue no, s.replied (some (.reg (s.regValue no)))) :=
  readRegister_eq s (by omega) (openRange_eq_none (by omega))

theorem Phase.code_injective {p q : Phase} (h : p.code.toNat = q.code.toNat) : p = q := by
  revert h
  cases p <;> cases q <;> decide

/-- The PHASE field of STATUS tells the phases apart. -/
theorem phaseField_eq_iff (s : State) (p : Phase) : phaseField (s.regValue 5) = p.code.toNat ↔ s.phase = p := by
  rw [show s.regValue 5 = s.status.toNat from rfl, phaseField_status]
  exact ⟨Phase.code_injective, fun h => h ▸ rfl⟩

/-! ### The wait -/

/-- A running block that is left alone answers, is still a good one, and has ended or has fewer moves to make. -/
theorem letRun_advances {s : State} (hinv : StateInv s) (hb : s.phase = .busy) (r : Option Reply) :
    ∃ t, letRun (s.replied r) = .next t ∧ StateInv t ∧ t.phase ≠ .idle ∧
      (t.phase = .busy → t.movesLeft < s.movesLeft) := by
  have hinv' := stateInv_replied hinv r
  obtain ⟨t, ht⟩ := stepNeverStopsInGoodStates _ hinv'
  have hunit : unitStep (s.replied r) = .next t := (step_of_busy (s := s.replied r) hb rfl).symm.trans ht
  refine ⟨t, ht, everyStepKeepsTheInvariant _ t hinv' ht, ?_, fun hbt => ?_⟩
  · rcases unitStep_phase hunit with e | e | ⟨e, -⟩ <;> rw [e]
    · rw [State.replied_phase, hb]
      decide
    all_goals decide
  · exact (unitStep_movesLeft hunit).resolve_left (by simp [Finished, hbt])

/-- A decode that was started and no longer runs has ended. -/
theorem finished_of_not_busy {s : State} (hstarted : s.phase ≠ .idle) (hb : s.phase ≠ .busy) : Finished s := by
  cases hp : s.phase with
  | idle => exact absurd hp hstarted
  | busy => exact absurd hp hb
  | done => exact .inl hp
  | fault => exact .inr hp

/-- Enough readings of STATUS see the decode end. -/
theorem waitForEnd_finishes {fuel : Nat} {s : State} (hinv : StateInv s) (hstarted : s.phase ≠ .idle)
    (hfuel : s.phase = .busy → s.movesLeft ≤ fuel) : ∃ t, waitForEnd fuel s = .next t ∧ StateInv t ∧ Finished t := by
  induction fuel generalizing s with
  | zero => exact ⟨s, rfl, hinv, finished_of_not_busy hstarted fun hb => s.movesLeft_pos.not_ge (hfuel hb)⟩
  | succ fuel ih =>
    rw [waitForEnd, readRegister_replied (by decide), Exchange.next_andThen]
    simp only [phaseField_eq_iff]
    by_cases hb : s.phase = .busy
    · obtain ⟨t, ht, hinvt, hstartedt, hless⟩ := letRun_advances hinv hb (some (.reg (s.regValue 5)))
      rw [if_pos hb, ht, Exchange.next_andThen]
      exact ih hinvt hstartedt fun hbt => Nat.le_of_lt_succ ((hless hbt).trans_le (hfuel hb))
    · rw [if_neg hb]
      exact ⟨_, rfl, stateInv_replied hinv _, finished_of_not_busy (s := s.replied _) hstarted hb⟩

/-! ### What the host reads at the end -/

/-- `px` are the pixels of the image from index `k` on. -/
def IsPixelsFrom (s : State) (k : Nat) (px : List Rgba) : Prop := ∀ j < px.length, px[j]? = memRead s.fb (k + j)

theorem IsPixelsFrom.cons {s : State} {k : Nat} {p : Rgba} {px : List Rgba} (hp : memRead s.fb k = some p)
    (hpx : IsPixelsFrom s (k + 1) px) : IsPixelsFrom s k (p :: px)
  | 0, _ => hp.symm
  | j + 1, hj => by
    rw [List.getElem?_cons_succ, hpx j (Nat.lt_of_succ_lt_succ hj), Nat.add_right_comm, Nat.add_assoc]

/-- In DONE the host reads the pixels that are there. -/
theorem readPixels_of_done {s : State} (hinv : StateInv s) (hd : s.phase = .done) (count k : Nat)
    (hk : k + count ≤ s.npix) (r₀ : Option Reply) :
    ∃ px r, readPixels count k (s.replied r₀) = .next (px, s.replied r) ∧ px.length = count ∧
      IsPixelsFrom s k px := by
  induction count generalizing k r₀ with
  | zero => exact ⟨[], r₀, rfl, rfl, nofun⟩
  | succ count ih =>
    have ⟨_, _, _, _, _, _, himg, _⟩ := hinv
    obtain ⟨p, hp, -⟩ := (imageFilled_iff _ _).mp (himg hd) k (by omega)
    have hread : issueCommand (.fbRead k) (s.replied r₀) = .next (s.replied (some (.pixel p))) := by
      obtain ⟨hfb, -⟩ := fbReadReturnsThePixelOrRefuses (s.replied r₀) k
      exact (issueCommand_eq rfl _).trans (hfb p hd (show k < s.npix by omega) hp)
    obtain ⟨px, r, hpx, hlen, hpixels⟩ := ih (k + 1) (by omega) (some (.pixel p))
    refine ⟨p :: px, r, ?_, congrArg (· + 1) hlen, hpixels.cons hp⟩
    rw [readPixels, hread, Exchange.next_andThen, hpx]
    rfl

/-- In DONE the host copies the whole image out. -/
theorem readImage_of_done {s : State} (hinv : StateInv s) (hd : s.phase = .done) :
    ∃ px r, readImage s = .next (⟨s.width.toNat, s.height.toNat, px⟩, s.replied r) ∧ px.length = s.npix ∧
      IsPixelsFrom s 0 px := by
  obtain ⟨px, r, hpx, hlen, hpixels⟩ := readPixels_of_done hinv hd s.npix 0 (Nat.zero_add _).le
    (some (.reg s.height.toNat))
  refine ⟨px, r, ?_, hlen, hpixels⟩
  have hpx' : readPixels (s.regValue 0 * s.regValue 1) 0 (s.replied (some (.reg (s.regValue 1)))) = _ := hpx
  simp only [readImage, readRegister_replied (show 0 ≤ 8 by decide), readRegister_replied (show 1 ≤ 8 by decide),
    Exchange.next_andThen, State.replied_replied, State.replied_regValue, hpx']
  rfl

/-- The host reads ERR and ERR_INFO. -/
theorem readError_eq (s : State) :
    readError s = .next (.block s.err.toNat s.errInfo.toNat, s.replied (some (.reg s.errInfo.toNat))) := by
  simp only [readError, readRegister_replied (show 6 ≤ 8 by decide), readRegister_replied (show 7 ≤ 8 by decide),
    Exchange.next_andThen, State.replied_replied, State.replied_regValue]
  rfl

/-! ### The session -/

/-- What the end of a session hands on when the block was started and is left as `t`: the recorded fault, or the
container's error, or the image of the block. -/
structure HandsOn (h : HostSession) (r : HostResult) (t : State) : Prop where
  parsed : r.parsed = h
  no_image_with_error : r.error ≠ none → r.image = none
  finished : Finished t
  fault : t.phase = .fault → r.error = some (.block t.err.toNat t.errInfo.toNat)
  error_of_done : t.phase = .done → r.error = h.containerError
  image_of_done : t.phase = .done → r.error = none →
    ∃ px, r.image = some ⟨t.width.toNat, t.height.toNat, px⟩ ∧ px.length = t.npix ∧
      ∀ k < t.npix, px[k]? = memRead t.fb k

/-- The reading of a decode that is DONE. -/
theorem handsOn_image (h : HostSession) {t : State} (hd : t.phase = .done) {px : List Rgba}
    (hlen : px.length = t.npix) (hpixels : IsPixelsFrom t 0 px) :
    HandsOn h ⟨if h.containerError = none then some ⟨t.width.toNat, t.height.toNat, px⟩ else none,
      h.containerError, h⟩ t where
  parsed := rfl
  no_image_with_error := fun he => if_neg he
  finished := .inl hd
  fault := fun hf => absurd (hd.symm.trans hf) (by decide)
  error_of_done := fun _ => rfl
  image_of_done := fun _ he =>
    ⟨px, if_pos he, hlen, fun k hk => by rw [hpixels k (hlen ▸ hk), Nat.zero_add]⟩

/-- The reading of a decode that faulted. -/
theorem handsOn_fault (h : HostSession) {t : State} (hf : t.phase = .fault) :
    HandsOn h ⟨none, some (.block t.err.toNat t.errInfo.toNat), h⟩ t where
  parsed := rfl
  no_image_with_error := fun _ => rfl
  finished := .inr hf
  fault := fun _ => rfl
  error_of_done := fun hd => absurd (hf.symm.trans hd) (by decide)
  image_of_done := nofun

/-- From a started block the session ends: the wait sees DONE, and the image is read, or FAULT, and the fault is. -/
theorem finishSession_handsOn (h : HostSession) {s : State} (hinv : StateInv s) (hstarted : s.phase ≠ .idle) :
    ∃ r t, finishSession h s = .next (r, t) ∧ StateInv t ∧ HandsOn h r t := by
  have hbound : s.movesLeft ≤ s.waitBound := s.movesLeft_le.trans (Nat.le_succ _)
  obtain ⟨u, hu, hinvu, hfin⟩ := waitForEnd_finishes hinv hstarted fun _ => hbound
  simp only [finishSession, hu, readRegister_replied (show 5 ≤ 8 by decide), Exchange.next_andThen, phaseField_eq_iff]
  have hinvr := stateInv_replied hinvu (some (.reg (u.regValue 5)))
  rcases hfin with hd | hf
  · obtain ⟨px, r, himage, hlen, hpixels⟩ := readImage_of_done hinvr hd
    rw [if_pos hd, himage, Exchange.next_andThen]
    exact ⟨_, _, rfl, stateInv_replied hinvu r, handsOn_image h (t := u.replied r) hd hlen hpixels⟩
  · rw [if_neg (by simp [hf]), readError_eq, Exchange.next_andThen]
    exact ⟨_, _, rfl, stateInv_replied hinvu _, handsOn_fault h (t := u.replied (some (.reg u.errInfo.toNat))) hf⟩

/-- Settles O58: the host's commands answer; START, the last of them, leaves the block started; and from there the
session ends (`finishSession_handsOn`). -/
theorem hostHandsOnTheImageOrOneError : Obligations.HostHandsOnTheImageOrOneError := by
  unfold Obligations.HostHandsOnTheImageOrOneError
  intro p file s hinv
  obtain ⟨hcmds, -⟩ := hostDecode_proper p file
  obtain ⟨u, hu, hinvu⟩ := issueAll_keeps hcmds hinv
  simp only [runSession, hu, Exchange.next_andThen]
  cases hb : (hostDecode p file).bodySeen with
  | false => exact ⟨_, _, rfl, hinvu, rfl, fun _ => rfl, fun _ => ⟨rfl, rfl⟩, nofun⟩
  | true =>
    have hstarted : u.phase ≠ .idle := issueAll_not_idle (hostDecode_startLast p file hb) hu
    obtain ⟨r, t, hrun, hinvt, hout⟩ := finishSession_handsOn (hostDecode p file) hinvu hstarted
    exact ⟨r, t, hrun, hinvt, hout.parsed, hout.no_image_with_error, nofun,
      fun _ => ⟨hout.finished, hout.fault, fun hd => ⟨hout.error_of_done hd, hout.image_of_done hd⟩⟩⟩

/-! ### The end-to-end check of the host protocol (R212) -/

/-- The command sequence of S8. -/
theorem exampleContainer_commands : (hostDecode .default exampleContainer).commands =
    [.reset, .hdrLoad 8 1 1 0, .palClear, .palPush 0 0 0, .palPush 255 255 255, .srcClear, .srcPush 0xC0, .start] := by
  decide

/-- Settles O59, by the commands of S8 and the run of the whole session. -/
theorem exampleContainerGivesTheDocumentsImage : Obligations.ExampleContainerGivesTheDocumentsImage := by
  unfold Obligations.ExampleContainerGivesTheDocumentsImage
  exact ⟨exampleContainer_commands, _, _, rfl, by decide, by decide, by decide⟩

end Sys2Proof.Machine
end

section
/-!
PROOFS. The faults (spec/60_exceptions.md): what taking one writes, that the block rests after it, and the COMP values
that select no operation.
-/

namespace Sys2Proof.Machine

/-- Taking a fault leaves the commands on their way alone, so it commutes with their coming nearer. -/
theorem State.tick_raise (s : State) (f : Cause) (info : Nat) : (s.raise f info).tick = s.tick.raise f info := by
  rw [State.tick, State.tick, State.raise_inbox]
  split <;> rfl

/-- Once a fault is taken, no unit runs: without a command that is due, a step only brings the queue nearer (R230). -/
theorem step_raise {s : State} (h : s.due = none) (f : Cause) (info : Nat) :
    step (s.raise f info) = .next (s.tick.raise f info) := by
  have hdue : (s.raise f info).due = none := h
  have hrest : (s.tick.raise f info).phase ≠ .busy := by simp
  rw [step_of_due_none hdue, State.tick_raise, blockStep_of_not_busy hrest]

/-- Settles O15: the listed codes are those of R220, and a step after the fault only waits (`step_raise`). -/
theorem raiseRecordsTheFaultAndNothingElse : Obligations.RaiseRecordsTheFaultAndNothingElse := by
  unfold Obligations.RaiseRecordsTheFaultAndNothingElse
  intro s info p hp
  have hcode : p.1.code = p.2 := by revert p; decide
  exact ⟨by rw [State.raise, hcode], fun hdue => step_raise hdue p.1 info⟩

/-- Settles O17: the selection is the fault itself, and START reaches it at its second test. -/
theorem unsupportedCompressionFaults : Obligations.UnsupportedCompressionFaults := by
  unfold Obligations.UnsupportedCompressionFaults
  exact ⟨fun _ _ => rfl, fun _ hp hv h0 h1 => execStart_of_unsupported hp hv h0 h1⟩

end Sys2Proof.Machine
end
